-- ==== Sys2Proof/Word.lean ====
section
/-! DEFINITION. The words of the machine: bytes, 16-bit words, the operand fields of an instruction word
(00_scope.md R6, R7; 30_encoding.md R81, R82). All values are unsigned. -/

namespace Sys2Proof

/-- Eight bits: a general register, a timer, a byte of memory, the immediate `kk`. -/
abbrev Byte := BitVec 8

/-- Sixteen bits: an instruction word, `pc`, `I`, a return address, a key set. -/
abbrev Word := BitVec 16

/-- The number of a general register, V0 to VF (10_state.md R21). -/
abbrev Reg := Fin 16

/-- A key code, 0x0 to 0xF (60_exceptions.md R237). -/
abbrev Key := Fin 16

/-- The immediate nibble `n`, and the bits 11:8 that CLS and RET ignore. -/
abbrev Nibble := BitVec 4

/-- The 12-bit address immediate `nnn`. -/
abbrev Addr12 := BitVec 12

/-- The flat index of a display cell, 0 to 2047 (10_state.md R31). -/
abbrev Pixel := Fin 2048

/-- The display: 32 rows, top to bottom, of 64 one-bit cells; bit `c` of row `r` is the cell at column `c`. -/
abbrev Grid := Vector (BitVec 64) 32

/-- VF, the flag register (10_state.md R22). -/
abbrev Reg.flag : Reg := 15

end Sys2Proof
end

