-- ==== Sys2Proof/Config.lean ====
section
/-! DEFINITION. What is fixed for one machine: the constants of 00_scope.md R4, the open parameters of R5 as the
fields of `Config`, and the one free value, the inputs the outside world supplies (40_cycle_and_fetch.md R101).
The defaults of R5 are in Machine/Defaults.lean. -/

namespace Sys2Proof

/-- The highest address of memory, 0xFFF (R4: MEM_SIZE = 4096). -/
@[simp] abbrev memTop : Nat := 0xFFF

/-- The last address of the reserved interpreter region (R4: RESERVED_END). -/
@[simp] abbrev reservedEnd : Nat := 0x1FF

/-- The first program address: reset value of `pc` and ROM load address (R4: PROG_BASE). -/
@[simp] abbrev progBase : Nat := 0x200

/-- The bytes of the font table, 0x000 to 0x04F (R4: 16 glyphs of 5 bytes). -/
@[simp] abbrev fontBytes : Nat := 80

/-- The entries of the call stack (R4: STACK_DEPTH). -/
@[simp] abbrev stackDepth : Nat := 16

/-- RESERVED_WRITE: what an instruction's store into 0x000 to 0x1FF does (20_memory.md R56). -/
inductive ReservedWrite where
  | fault
  | perform
  deriving DecidableEq, Repr, Inhabited

/-- VF_PRIORITY: which write wins when an instruction writes its result and its flag to VF (42_load_alu.md R141). -/
inductive VfPriority where
  | flag
  | result
  deriving DecidableEq, Repr, Inhabited

/-- A width of the program counter: every number of bits that holds the reset value 0x200 (10_state.md R24; log 1). -/
abbrev PcWidth := { w : Nat // 10 ≤ w }

/-- The open parameters of 00_scope.md R5 (log 2). The tick policy is the input `tick` (log 7). -/
structure Config where
  /-- PC_WIDTH: the bits of `pc` and of a stack entry (10_state.md R24; D8). -/
  pcWidth : PcWidth
  /-- ADDI_MASK12: additions to `I` keep 12 bits; otherwise all 16. -/
  addiMask12 : Bool
  /-- ADDI_VF: `ADD I,Vx` writes VF. -/
  addiVf : Bool
  /-- LDST_ADVANCE_I: the block transfers advance `I`. -/
  ldstAdvanceI : Bool
  reservedWrite : ReservedWrite
  vfPriority : VfPriority
  /-- key_select as the finite table of its values: a key set listed with a member of itself selects that member,
  every other set selects its lowest key (45_timer_input.md R206; log 3). -/
  keySelect : List (Word × Key)
  /-- FONT: the 80 glyph bytes (10_state.md R32; log 4). -/
  font : Vector Byte 80
  deriving DecidableEq, Repr

/-- The inputs of one cycle (40_cycle_and_fetch.md R101). Each is a draw: no rule constrains its value. -/
structure CycleIn where
  /-- `in.quit` -/
  quit : Bool
  /-- `in.keys`: bit `k` is 1 when key `k` is down. -/
  keys : Word
  /-- `in.rnd` -/
  rnd : Byte
  /-- `in.tick` -/
  tick : Bool
  deriving DecidableEq, Repr, Inhabited

/-- The inputs with nothing asserted. -/
def CycleIn.quiet : CycleIn := { quit := false, keys := 0, rnd := 0, tick := false }

/-- The free value (log 7): the inputs of a cycle for which State lists no host move, applied to the count of such
cycles. Nothing is known of it. -/
opaque Config.freeInput : Nat → CycleIn

end Sys2Proof
end

