-- ==== Sys2Proof/Syntax.lean ====
section
/-! DEFINITION. The instructions: one constructor for each row of spec/opcode_table.json (30_encoding.md R86), in the
table's order. Ignored fields (30_encoding.md R90) are kept, so that every word is the encoding of exactly one
instruction. -/

namespace Sys2Proof

inductive Instr where
  /-- `CLS`, 0x?E0; `ign` is the ignored nibble. -/
  | cls (ign : Nibble)
  /-- `RET`, 0x?EE; `ign` is the ignored nibble. -/
  | ret (ign : Nibble)
  /-- `JP addr`, 1nnn -/
  | jp (nnn : Addr12)
  /-- `CALL addr`, 2nnn -/
  | call (nnn : Addr12)
  /-- `SE Vx,kk`, 3xkk -/
  | seImm (x : Reg) (kk : Byte)
  /-- `SE Vx,Vy`, 5xy0 -/
  | seReg (x y : Reg)
  /-- `SNE Vx,kk`, 4xkk -/
  | sneImm (x : Reg) (kk : Byte)
  /-- `SNE Vx,Vy`, 9xy0 -/
  | sneReg (x y : Reg)
  /-- `LD Vx,kk`, 6xkk -/
  | ldImm (x : Reg) (kk : Byte)
  /-- `LD Vx,Vy`, 8xy0 -/
  | ldReg (x y : Reg)
  /-- `ADD Vx,kk`, 7xkk -/
  | addImm (x : Reg) (kk : Byte)
  /-- `OR Vx,Vy`, 8xy1 -/
  | orReg (x y : Reg)
  /-- `AND Vx,Vy`, 8xy2 -/
  | andReg (x y : Reg)
  /-- `XOR Vx,Vy`, 8xy3 -/
  | xorReg (x y : Reg)
  /-- `ADD Vx,Vy`, 8xy4 -/
  | addReg (x y : Reg)
  /-- `SUB Vx,Vy`, 8xy5 -/
  | sub (x y : Reg)
  /-- `SUBN Vx,Vy`, 8xy7 -/
  | subn (x y : Reg)
  /-- `SHR Vx`, 8xy6; `y` is ignored. -/
  | shr (x y : Reg)
  /-- `SHL Vx`, 8xyE; `y` is ignored. -/
  | shl (x y : Reg)
  /-- `LD I,addr`, Annn -/
  | ldI (nnn : Addr12)
  /-- `JP V0,addr`, Bnnn -/
  | jpV0 (nnn : Addr12)
  /-- `RND Vx,kk`, Cxkk -/
  | rnd (x : Reg) (kk : Byte)
  /-- `DRW Vx,Vy,n`, Dxyn -/
  | drw (x y : Reg) (n : Nibble)
  /-- `SKP Vx`, Ex9E -/
  | skp (x : Reg)
  /-- `SKNP Vx`, ExA1 -/
  | sknp (x : Reg)
  /-- `LD Vx,DT`, Fx07 -/
  | ldVxDt (x : Reg)
  /-- `LD DT,Vx`, Fx15 -/
  | ldDtVx (x : Reg)
  /-- `LD ST,Vx`, Fx18 -/
  | ldStVx (x : Reg)
  /-- `LD Vx,K`, Fx0A -/
  | ldVxK (x : Reg)
  /-- `ADD I,Vx`, Fx1E -/
  | addI (x : Reg)
  /-- `LD F,Vx`, Fx29 -/
  | ldF (x : Reg)
  /-- `LD B,Vx`, Fx33 -/
  | ldB (x : Reg)
  /-- `LD [I],Vx`, Fx55 -/
  | storeRegs (x : Reg)
  /-- `LD Vx,[I]`, Fx65 -/
  | loadRegs (x : Reg)
  /-- `UNKNOWN`: a word that no other row matches (30_encoding.md R88, R89). -/
  | unknown (w : Word)
  deriving DecidableEq, Repr

end Sys2Proof
end

