-- ==== Sys2Proof/WellFormed.lean ====
section
/-! DEFINITION. Well-formed instructions. Every field but one has a type that admits exactly the values the encoding
admits; the one check is that UNKNOWN carries a word of the unknown space, listed by family as 30_encoding.md R88
lists it. -/

namespace Sys2Proof

/-- The unknown space by family (30_encoding.md R88). -/
def unknownWord (w : Word) : Bool :=
  let family := (w.extractLsb' 12 4).toNat
  let lowByte := (w.extractLsb' 0 8).toNat
  let lowNibble := (w.extractLsb' 0 4).toNat
  match family with
  | 0x0 => !([0xE0, 0xEE].contains lowByte)
  | 0x5 => lowNibble != 0
  | 0x8 => [0x8, 0x9, 0xA, 0xB, 0xC, 0xD, 0xF].contains lowNibble
  | 0x9 => lowNibble != 0
  | 0xE => !([0x9E, 0xA1].contains lowByte)
  | 0xF => !([0x07, 0x0A, 0x15, 0x18, 0x1E, 0x29, 0x33, 0x55, 0x65].contains lowByte)
  | _ => false

/-- The instruction has an encoding: UNKNOWN stands only for words of the unknown space. -/
def Instr.wellFormed : Instr → Bool
  | .unknown w => unknownWord w
  | _ => true

end Sys2Proof
end

