-- ==== Sys2Proof/Decode.lean ====
section
/-! DEFINITION. The decoder (30_encoding.md R83: total on words, UNKNOWN is the default arm), the byte-level decoder,
and after it the encoder (R81, R86), written from the same encodings. The opcode numbers are those R86 prints
(log 5). -/

namespace Sys2Proof

/-- The opcode family, W[15:12]. -/
def fieldFamily (w : Word) : Nibble := w.extractLsb' 12 4

/-- The selector x = W[11:8] (00_scope.md R7). -/
def fieldX (w : Word) : Reg := ⟨(w.extractLsb' 8 4).toNat, (w.extractLsb' 8 4).isLt⟩

/-- The selector y = W[7:4]. -/
def fieldY (w : Word) : Reg := ⟨(w.extractLsb' 4 4).toNat, (w.extractLsb' 4 4).isLt⟩

/-- The immediate nibble n = W[3:0]. -/
def fieldN (w : Word) : Nibble := w.extractLsb' 0 4

/-- The immediate byte kk = W[7:0]. -/
def fieldKk (w : Word) : Byte := w.extractLsb' 0 8

/-- The address immediate nnn = W[11:0]. -/
def fieldNnn (w : Word) : Addr12 := w.extractLsb' 0 12

/-- The nibble W[11:8] that CLS and RET ignore (30_encoding.md R84). -/
def fieldIgnored (w : Word) : Nibble := w.extractLsb' 8 4

/-- Family 0x0: the low byte tells CLS and RET (mask 0xF0FF). -/
def decodeFamily0 (w : Word) : Instr :=
  match (fieldKk w).toNat with
  | 0xE0 => .cls (fieldIgnored w)
  | 0xEE => .ret (fieldIgnored w)
  | _ => .unknown w

/-- Family 0x8: the low nibble tells the register operations (mask 0xF00F). -/
def decodeFamily8 (w : Word) : Instr :=
  match (fieldN w).toNat with
  | 0x0 => .ldReg (fieldX w) (fieldY w)
  | 0x1 => .orReg (fieldX w) (fieldY w)
  | 0x2 => .andReg (fieldX w) (fieldY w)
  | 0x3 => .xorReg (fieldX w) (fieldY w)
  | 0x4 => .addReg (fieldX w) (fieldY w)
  | 0x5 => .sub (fieldX w) (fieldY w)
  | 0x6 => .shr (fieldX w) (fieldY w)
  | 0x7 => .subn (fieldX w) (fieldY w)
  | 0xE => .shl (fieldX w) (fieldY w)
  | _ => .unknown w

/-- Family 0xE: the low byte tells the key skips (mask 0xF0FF). -/
def decodeFamilyE (w : Word) : Instr :=
  match (fieldKk w).toNat with
  | 0x9E => .skp (fieldX w)
  | 0xA1 => .sknp (fieldX w)
  | _ => .unknown w

/-- Family 0xF: the low byte tells the timer, key and memory instructions (mask 0xF0FF). -/
def decodeFamilyF (w : Word) : Instr :=
  match (fieldKk w).toNat with
  | 0x07 => .ldVxDt (fieldX w)
  | 0x0A => .ldVxK (fieldX w)
  | 0x15 => .ldDtVx (fieldX w)
  | 0x18 => .ldStVx (fieldX w)
  | 0x1E => .addI (fieldX w)
  | 0x29 => .ldF (fieldX w)
  | 0x33 => .ldB (fieldX w)
  | 0x55 => .storeRegs (fieldX w)
  | 0x65 => .loadRegs (fieldX w)
  | _ => .unknown w

/-- 30_encoding.md R83: decode is a function of the word alone and total over all 65536 words (R85). -/
def decode (w : Word) : Instr :=
  match (fieldFamily w).toNat with
  | 0x0 => decodeFamily0 w
  | 0x1 => .jp (fieldNnn w)
  | 0x2 => .call (fieldNnn w)
  | 0x3 => .seImm (fieldX w) (fieldKk w)
  | 0x4 => .sneImm (fieldX w) (fieldKk w)
  | 0x5 => if (fieldN w).toNat = 0 then .seReg (fieldX w) (fieldY w) else .unknown w
  | 0x6 => .ldImm (fieldX w) (fieldKk w)
  | 0x7 => .addImm (fieldX w) (fieldKk w)
  | 0x8 => decodeFamily8 w
  | 0x9 => if (fieldN w).toNat = 0 then .sneReg (fieldX w) (fieldY w) else .unknown w
  | 0xA => .ldI (fieldNnn w)
  | 0xB => .jpV0 (fieldNnn w)
  | 0xC => .rnd (fieldX w) (fieldKk w)
  | 0xD => .drw (fieldX w) (fieldY w) (fieldN w)
  | 0xE => decodeFamilyE w
  | _ => decodeFamilyF w

/-- Why a string of bytes holds no instruction. -/
inductive DecodeError where
  /-- fewer than the two bytes of an instruction word (30_encoding.md R80) -/
  | truncated
  deriving DecidableEq, Repr

/-- The word in two consecutive bytes, most significant first (20_memory.md R57). -/
def wordOfBytes (hi lo : Byte) : Word := BitVec.ofNat 16 (hi.toNat * 0x100 + lo.toNat)

/-- The two bytes of a word, in the order memory holds them. -/
def bytesOfWord (w : Word) : List Byte := [w.extractLsb' 8 8, w.extractLsb' 0 8]

/-- The instruction at the front of a string of bytes, and the rest of the string. -/
def decodeBytes : List Byte → Except DecodeError (Instr × List Byte)
  | hi :: lo :: rest => .ok (decode (wordOfBytes hi lo), rest)
  | _ => .error .truncated

/-- The instruction the decoder reads from the bits `w` of a row of spec/opcode_table.json, `nbits` wide; bits above
`nbits` are 0. -/
def decodeTableWord (nbits w : Nat) : Option Instr :=
  match decodeBytes (bytesOfWord (BitVec.ofNat 16 (w % 2 ^ nbits))) with
  | .ok (i, _) => some i
  | .error _ => none

/-- Format NNN (30_encoding.md R81). -/
def formatNNN (family : Nat) (nnn : Addr12) : Word := BitVec.ofNat 16 (family * 0x1000 + nnn.toNat)

/-- Format XKK. -/
def formatXKK (family : Nat) (x : Reg) (kk : Byte) : Word :=
  BitVec.ofNat 16 (family * 0x1000 + x.val * 0x100 + kk.toNat)

/-- Format XYS: the low nibble is the sub-opcode. -/
def formatXYS (family : Nat) (x y : Reg) (sub : Nat) : Word :=
  BitVec.ofNat 16 (family * 0x1000 + x.val * 0x100 + y.val * 0x10 + sub)

/-- Format XYN: the low nibble is `n`. -/
def formatXYN (family : Nat) (x y : Reg) (n : Nibble) : Word :=
  BitVec.ofNat 16 (family * 0x1000 + x.val * 0x100 + y.val * 0x10 + n.toNat)

/-- Format XSS: the low byte is the sub-opcode. -/
def formatXSS (family : Nat) (x : Reg) (sub : Nat) : Word :=
  BitVec.ofNat 16 (family * 0x1000 + x.val * 0x100 + sub)

/-- Format 0SS: the ignored nibble is written back as it was read. -/
def format0SS (ign : Nibble) (sub : Nat) : Word := BitVec.ofNat 16 (ign.toNat * 0x100 + sub)

/-- The word of an instruction (30_encoding.md R86). -/
def encode : Instr → Word
  | .cls ign => format0SS ign 0xE0
  | .ret ign => format0SS ign 0xEE
  | .jp nnn => formatNNN 0x1 nnn
  | .call nnn => formatNNN 0x2 nnn
  | .seImm x kk => formatXKK 0x3 x kk
  | .seReg x y => formatXYS 0x5 x y 0x0
  | .sneImm x kk => formatXKK 0x4 x kk
  | .sneReg x y => formatXYS 0x9 x y 0x0
  | .ldImm x kk => formatXKK 0x6 x kk
  | .ldReg x y => formatXYS 0x8 x y 0x0
  | .addImm x kk => formatXKK 0x7 x kk
  | .orReg x y => formatXYS 0x8 x y 0x1
  | .andReg x y => formatXYS 0x8 x y 0x2
  | .xorReg x y => formatXYS 0x8 x y 0x3
  | .addReg x y => formatXYS 0x8 x y 0x4
  | .sub x y => formatXYS 0x8 x y 0x5
  | .subn x y => formatXYS 0x8 x y 0x7
  | .shr x y => formatXYS 0x8 x y 0x6
  | .shl x y => formatXYS 0x8 x y 0xE
  | .ldI nnn => formatNNN 0xA nnn
  | .jpV0 nnn => formatNNN 0xB nnn
  | .rnd x kk => formatXKK 0xC x kk
  | .drw x y n => formatXYN 0xD x y n
  | .skp x => formatXSS 0xE x 0x9E
  | .sknp x => formatXSS 0xE x 0xA1
  | .ldVxDt x => formatXSS 0xF x 0x07
  | .ldDtVx x => formatXSS 0xF x 0x15
  | .ldStVx x => formatXSS 0xF x 0x18
  | .ldVxK x => formatXSS 0xF x 0x0A
  | .addI x => formatXSS 0xF x 0x1E
  | .ldF x => formatXSS 0xF x 0x29
  | .ldB x => formatXSS 0xF x 0x33
  | .storeRegs x => formatXSS 0xF x 0x55
  | .loadRegs x => formatXSS 0xF x 0x65
  | .unknown w => w

/-- The instruction's row of the opcode table: its match value and its mask (30_encoding.md R86). UNKNOWN has none. -/
def rowOf : Instr → Option (Word × Word)
  | .cls _ => some (0x00E0, 0xF0FF)
  | .ret _ => some (0x00EE, 0xF0FF)
  | .jp _ => some (0x1000, 0xF000)
  | .call _ => some (0x2000, 0xF000)
  | .seImm _ _ => some (0x3000, 0xF000)
  | .seReg _ _ => some (0x5000, 0xF00F)
  | .sneImm _ _ => some (0x4000, 0xF000)
  | .sneReg _ _ => some (0x9000, 0xF00F)
  | .ldImm _ _ => some (0x6000, 0xF000)
  | .ldReg _ _ => some (0x8000, 0xF00F)
  | .addImm _ _ => some (0x7000, 0xF000)
  | .orReg _ _ => some (0x8001, 0xF00F)
  | .andReg _ _ => some (0x8002, 0xF00F)
  | .xorReg _ _ => some (0x8003, 0xF00F)
  | .addReg _ _ => some (0x8004, 0xF00F)
  | .sub _ _ => some (0x8005, 0xF00F)
  | .subn _ _ => some (0x8007, 0xF00F)
  | .shr _ _ => some (0x8006, 0xF00F)
  | .shl _ _ => some (0x800E, 0xF00F)
  | .ldI _ => some (0xA000, 0xF000)
  | .jpV0 _ => some (0xB000, 0xF000)
  | .rnd _ _ => some (0xC000, 0xF000)
  | .drw _ _ _ => some (0xD000, 0xF000)
  | .skp _ => some (0xE09E, 0xF0FF)
  | .sknp _ => some (0xE0A1, 0xF0FF)
  | .ldVxDt _ => some (0xF007, 0xF0FF)
  | .ldDtVx _ => some (0xF015, 0xF0FF)
  | .ldStVx _ => some (0xF018, 0xF0FF)
  | .ldVxK _ => some (0xF00A, 0xF0FF)
  | .addI _ => some (0xF01E, 0xF0FF)
  | .ldF _ => some (0xF029, 0xF0FF)
  | .ldB _ => some (0xF033, 0xF0FF)
  | .storeRegs _ => some (0xF055, 0xF0FF)
  | .loadRegs _ => some (0xF065, 0xF0FF)
  | .unknown _ => none

end Sys2Proof
end

