-- ==== Sys2Proof/Machine/Defaults.lean ====
section
/-! DEFINITION. The defaults of the open parameters (00_scope.md R5), which the machine has after reset (log 2). -/

namespace Sys2Proof.Machine

/-- The default FONT (10_state.md R32, there marked as general knowledge; log 4): glyphs 0 to F, 5 bytes each. -/
def defaultFont : Vector Byte 80 :=
  #v[0xF0, 0x90, 0x90, 0x90, 0xF0,
     0x20, 0x60, 0x20, 0x20, 0x70,
     0xF0, 0x10, 0xF0, 0x80, 0xF0,
     0xF0, 0x10, 0xF0, 0x10, 0xF0,
     0x90, 0x90, 0xF0, 0x10, 0x10,
     0xF0, 0x80, 0xF0, 0x10, 0xF0,
     0xF0, 0x80, 0xF0, 0x90, 0xF0,
     0xF0, 0x10, 0x20, 0x40, 0x40,
     0xF0, 0x90, 0xF0, 0x90, 0xF0,
     0xF0, 0x90, 0xF0, 0x10, 0xF0,
     0xF0, 0x90, 0xF0, 0x90, 0x90,
     0xE0, 0x90, 0xE0, 0x90, 0xE0,
     0xF0, 0x80, 0x80, 0x80, 0xF0,
     0xE0, 0x90, 0x90, 0x90, 0xE0,
     0xF0, 0x80, 0xF0, 0x80, 0xF0,
     0xF0, 0x80, 0xF0, 0x80, 0x80]

/-- The default configuration (00_scope.md R5): a `pc` of 16 bits, mask `I` to 12 bits, no flag from `ADD I,Vx`, no advance of `I`, a
reserved-region store faults, the flag wins, the lowest key is selected. -/
def defaultConfig : Config :=
  { pcWidth := ⟨16, by decide⟩
    addiMask12 := true
    addiVf := false
    ldstAdvanceI := false
    reservedWrite := .fault
    vfPriority := .flag
    keySelect := []
    font := defaultFont }

end Sys2Proof.Machine
end

