-- ==== Sys2Proof/Machine/State.lean ====
section
/-! DEFINITION. The state of the machine (10_state.md R20), the moves of the host and the output events
(40_cycle_and_fetch.md R101, 70_reset_and_hazards.md R273), and the state after reset (R39). -/

namespace Sys2Proof.Machine

/-- The execution loop's state (10_state.md R35). -/
inductive RunState where
  | idle
  | running
  | halted
  | faulted
  deriving DecidableEq, Repr

/-- The causes of a fault (60_exceptions.md R221). -/
inductive FaultCause where
  /-- code 0: no fault -/
  | none
  /-- code 1: MemoryFault, an address above 0xFFF (R222) -/
  | memRange
  /-- code 2: MemoryFault, an instruction's store into 0x000 to 0x1FF (R223) -/
  | memReserved
  /-- code 3: StackOverflow (R224) -/
  | stackOverflow
  /-- code 4: StackUnderflow (R225) -/
  | stackUnderflow
  deriving DecidableEq, Repr

/-- An output pulse of one cycle (00_scope.md R12, 40_cycle_and_fetch.md R101). -/
inductive Event where
  /-- `unknown`, with the word and the address it was fetched from (R110) -/
  | unknown (w this : Word)
  /-- `present`: the host takes the display as it is at that moment (R107) -/
  | present (grid : Grid)
  /-- `tone_stop` (R108) -/
  | toneStop
  deriving DecidableEq, Repr

/-- What the host does between or at cycles (70_reset_and_hazards.md R273). -/
inductive HostMove where
  /-- `rst` (R260) -/
  | reset
  /-- the load port: a whole ROM (R264) -/
  | load (rom : List Byte)
  /-- `start` (R265) -/
  | start
  /-- one cycle with its inputs (R101) -/
  | cycle (inp : CycleIn)
  deriving DecidableEq, Repr

/-- The state. The first fifteen fields are the spec's (10_state.md R20); `cfg`, `inp`, `host`, `draws` and `events`
are the model's own (log 2, 7, 8). -/
structure State where
  /-- V0 to VF -/
  v : Vector Byte 16
  pc : Word
  /-- the address register `I` -/
  i : Word
  stack : Vector Word 16
  /-- the number of valid stack entries, 0 to 16 -/
  sp : Fin 17
  /-- the delay timer -/
  dt : Byte
  /-- the sound timer -/
  st : Byte
  mem : List Host.Cell
  /-- the display -/
  fb : Grid
  dirty : Bool
  /-- `K`: bit `k` is 1 when key `k` was down at the last poll -/
  keys : Word
  runState : RunState
  faultCause : FaultCause
  faultAddr : BitVec 17
  faultPc : Word
  /-- the open parameters; no step changes them -/
  cfg : Config
  /-- the inputs sampled in the cycle in progress -/
  inp : CycleIn
  /-- the host's moves still to come, oldest first -/
  host : List HostMove
  /-- the count of cycles whose inputs were the free value -/
  draws : Nat
  /-- the events emitted so far, oldest first -/
  events : List Event
  deriving DecidableEq, Repr

/-- The reasons for which a step ends with a fault outcome: none. Every fault of the spec (MemoryFault, StackOverflow,
StackUnderflow) is entered as 60_exceptions.md R226 describes, in a next state whose run state is Faulted (log 9), so
no constructor is needed and no step answers `.fault`. Safe. -/
inductive Fault where
  deriving DecidableEq, Repr

/-- The reasons for which a step is refused. -/
inductive Refusal where
  /-- An instruction without a meaning yet; raised by an arm of `exec` only, and no arm is left that raises it. Safe. -/
  | notModelled (mnemonic : String)
  deriving DecidableEq, Repr

/-- The machine right after reset (10_state.md R39): memory at its reset contents, `pc` 0x200, Idle, everything else
zero (log 6, 16), the configuration at the defaults of 00_scope.md R5 (log 2). -/
def State.reset : State :=
  { v := Vector.replicate 16 0
    pc := 0x200
    i := 0
    stack := Vector.replicate 16 0
    sp := 0
    dt := 0
    st := 0
    mem := []
    fb := Vector.replicate 32 0
    dirty := false
    keys := 0
    runState := .idle
    faultCause := .none
    faultAddr := 0
    faultPc := 0
    cfg := defaultConfig
    inp := CycleIn.quiet
    host := []
    draws := 0
    events := [] }

end Sys2Proof.Machine
end

