-- ==== Sys2Proof/Machine/Operands.lean ====
section
/-! DEFINITION. Operands: the general registers, the program counter, the address register, the timers and the key set,
each read and written through one operation (00_scope.md R8). -/

namespace Sys2Proof.Machine

/-- The answer of a meaning. -/
abbrev Res := Host.Outcome State Fault Refusal

/-- `V[x]` (10_state.md R21). -/
def State.reg (s : State) (x : Reg) : Byte := s.v[x]

/-- `V[x] <- b`; no register is hard-wired. -/
def State.setReg (s : State) (x : Reg) (b : Byte) : State := { s with v := s.v.set x b }

/-- What a program counter of PC_WIDTH bits keeps of a value (10_state.md R24; log 1): all of it at 13 bits or more,
since no rule gives it more than 0x10FE (R25); a narrower one wraps silently (92_eei_decisions.md D3). -/
def keepPc (c : Config) (v : Nat) : Word := BitVec.ofNat 16 (v % 2 ^ c.pcWidth.val)

/-- `pc <- v`; a target is never validated when it is written (41_control_flow.md R120). -/
def State.setPc (s : State) (v : Nat) : State := { s with pc := keepPc s.cfg v }

/-- `next = this + 2` (00_scope.md R8), when `pc` holds `this`. -/
def State.nextPc (s : State) : Word := keepPc s.cfg (s.pc.toNat + 2)

/-- The fetch's advance of `pc` past the instruction word (40_cycle_and_fetch.md R106; log 10). -/
def State.advance (s : State) : State := s.setPc (s.pc.toNat + 2)

/-- A skip: `pc` becomes `this + 4` when `taken` (41_control_flow.md R120, R124). -/
def State.skipIf (s : State) (taken : Bool) : State :=
  if taken then s.setPc (s.pc.toNat + 4) else s.advance

/-- `I <- a`. -/
def State.setI (s : State) (a : Word) : State := { s with i := a }

/-- `wrapI` (43_index_memory.md R170): a sum kept in `I`, 12 bits of it under ADDI_MASK12 and 16 otherwise. -/
def wrapI (c : Config) (v : Nat) : Word :=
  BitVec.ofNat 16 (if c.addiMask12 then v % 0x1000 else v % 0x10000)

/-- `DT <- b`. -/
def State.setDt (s : State) (b : Byte) : State := { s with dt := b }

/-- `ST <- b`. -/
def State.setSt (s : State) (b : Byte) : State := { s with st := b }

/-- A register's value is in the pressed-key set: it is a key code, and that key is down (45_timer_input.md R201). The
value is not reduced to 4 bits. -/
def State.keyDown (s : State) (b : Byte) : Bool := decide (b.toNat ≤ 15) && s.keys.getLsbD b.toNat

/-- The lowest key code of a key set. -/
def lowestKey (k : Word) : Key := ((List.finRange 16).find? fun (j : Key) => k.getLsbD j.val).getD 0

/-- `key_select` (45_timer_input.md R206): the table's choice where it lists the set with one of its members, else the
lowest key (log 3). -/
def keySelect (c : Config) (k : Word) : Key :=
  match c.keySelect.lookup k with
  | some j => if k.getLsbD j.val then j else lowestKey k
  | none => lowestKey k

end Sys2Proof.Machine
end

