-- ==== Sys2Proof/Machine/Flags.lean ====
section
/-! DEFINITION. The flag VF (10_state.md R23): how each flag is computed, and how a result and a flag are written
together (42_load_alu.md R141). Operands are taken as natural numbers, computed exactly and narrowed at the end. -/

namespace Sys2Proof.Machine

/-- A flag as the byte VF holds: 0 or 1 (10_state.md R22). -/
def flagByte (f : Bool) : Byte := if f then 1 else 0

/-- `V[15] <- f`. -/
def State.setFlag (s : State) (f : Bool) : State := s.setReg Reg.flag (flagByte f)

/-- WriteResultAndFlag (42_load_alu.md R141): for x = 15 the two writes meet and VF_PRIORITY decides. -/
def State.writeResultAndFlag (s : State) (x : Reg) (r : Byte) (f : Bool) : State :=
  if x = Reg.flag then
    match s.cfg.vfPriority with
    | .flag => s.setFlag f
    | .result => s.setReg Reg.flag r
  else (s.setReg x r).setFlag f

/-- A sum modulo 256. -/
def addByte (a b : Byte) : Byte := BitVec.ofNat 8 ((a.toNat + b.toNat) % 256)

/-- The carry of a sum: it exceeds 255 (42_load_alu.md R148). -/
def addCarry (a b : Byte) : Bool := decide (a.toNat + b.toNat > 255)

/-- A difference modulo 256 (42_load_alu.md R149). -/
def subByte (a b : Byte) : Byte := BitVec.ofNat 8 ((a.toNat + 256 - b.toNat) % 256)

/-- The flag of a difference: strictly greater (42_load_alu.md R149; 90_conflicts.md C3). -/
def subFlag (a b : Byte) : Bool := decide (a.toNat > b.toNat)

/-- The logical shift right by one (42_load_alu.md R151). -/
def shrByte (a : Byte) : Byte := BitVec.ofNat 8 (a.toNat / 2)

/-- The bit the right shift moves out: bit 0. -/
def shrFlag (a : Byte) : Bool := a.getLsbD 0

/-- The shift left by one, modulo 256 (42_load_alu.md R152). -/
def shlByte (a : Byte) : Byte := BitVec.ofNat 8 ((a.toNat * 2) % 256)

/-- The bit the left shift moves out: bit 7. -/
def shlFlag (a : Byte) : Bool := a.getLsbD 7

/-- The flag of `ADD I,Vx` when ADDI_VF is set: the sum exceeds 0xFFF (43_index_memory.md R172). -/
def addIFlag (s : Nat) : Bool := decide (s > 0xFFF)

end Sys2Proof.Machine
end

