-- ==== Sys2Proof/Machine/Memory.lean ====
section
/-! DEFINITION. Memory as plain data (20_memory.md R50, R51): a list of (address, byte) pairs in one canonical form,
addresses strictly rising and no pair equal to what an unlisted address reads as, so that equal memories are equal
lists (log 13). -/

namespace Sys2Proof.Machine

/-- What an address that memory does not list reads as: the contents after reset, FONT in 0x000 to 0x04F and zero
elsewhere (10_state.md R39, 70_reset_and_hazards.md R261). -/
def resetByte (c : Config) (a : Nat) : Byte :=
  if h : a < fontBytes then c.font[a] else 0

/-- The byte at an address; `d` is what an unlisted address reads as. -/
def Memory.get (d : Nat → Byte) : List Host.Cell → Nat → Byte
  | [], a => d a
  | (k, b) :: m, a => if a = k then b else Memory.get d m a

/-- The pair for `a` in front of `m`, or no pair when the byte is what an unlisted address reads as. -/
def Memory.put (d : Nat → Byte) (a : Nat) (b : Byte) (m : List Host.Cell) : List Host.Cell :=
  if b = d a then m else (a, b) :: m

/-- Memory with the byte at `a` replaced by `b`, in canonical form. -/
def Memory.set (d : Nat → Byte) : List Host.Cell → Nat → Byte → List Host.Cell
  | [], a, b => Memory.put d a b []
  | (k, c) :: m, a, b =>
    if a < k then Memory.put d a b ((k, c) :: m)
    else if a = k then Memory.put d a b m
    else (k, c) :: Memory.set d m a b

/-- Every listed address is at least `low` and at most 0xFFF, the addresses rise strictly, and no pair holds what an
unlisted address reads as. -/
def Memory.wfFrom (d : Nat → Byte) : Nat → List Host.Cell → Bool
  | _, [] => true
  | low, (k, b) :: m => decide (low ≤ k) && decide (k ≤ memTop) && (b != d k) && Memory.wfFrom d (k + 1) m

/-- The canonical form of a memory of addresses 0x000 to 0xFFF. -/
def Memory.wf (d : Nat → Byte) (m : List Host.Cell) : Bool := Memory.wfFrom d 0 m

end Sys2Proof.Machine
end

