-- ==== Sys2Proof/Machine/Ops.lean ====
section
/-! DEFINITION. The named operations over memory, the call stack, the fault record, the events and the host's moves.
Taking a fault is ONE operation (`State.takeFault`), and the only way out of a fault (`State.hostReset`) stands beside
it. -/

namespace Sys2Proof.Machine

/-- The byte at an address, without validation (20_memory.md R53). -/
def State.readByte (s : State) (a : Nat) : Byte := Memory.get (resetByte s.cfg) s.mem a

/-- `mem[a] <- b`, without validation: exactly one byte changes (20_memory.md R54). -/
def State.writeByte (s : State) (a : Nat) (b : Byte) : State :=
  { s with mem := Memory.set (resetByte s.cfg) s.mem a b }

/-- Memory is in canonical form. -/
abbrev State.memWf (s : State) : Prop := Memory.wf (resetByte s.cfg) s.mem = true

/-- `n` bytes from ascending addresses. -/
def State.readBytes (s : State) (a n : Nat) : List Byte := (List.range n).map fun k => s.readByte (a + k)

/-- Bytes to ascending addresses, the first at `a`. -/
def State.writeBytes (s : State) (a : Nat) : List Byte → State
  | [] => s
  | b :: bs => (s.writeByte a b).writeBytes (a + 1) bs

/-- What a read of an address raises (20_memory.md R53). Addresses are natural numbers; none is masked (R52, R55). -/
def readFault (a : Nat) : Option FaultCause := if a > memTop then some .memRange else none

/-- What an instruction's store to an address raises (20_memory.md R54, R56). -/
def writeFault (c : Config) (a : Nat) : Option FaultCause :=
  if a > memTop then some .memRange
  else if a ≤ reservedEnd ∧ c.reservedWrite = .fault then some .memReserved
  else none

/-- The validation of `n` accesses at ascending addresses from `a`: the lowest failing address and its cause
(20_memory.md R55, 60_exceptions.md R227). -/
def firstFault (chk : Nat → Option FaultCause) : Nat → Nat → Option (FaultCause × Nat)
  | _, 0 => none
  | a, n + 1 =>
    match chk a with
    | some c => some (c, a)
    | none => firstFault chk (a + 1) n

/-- Fault entry (60_exceptions.md R226, 40_cycle_and_fetch.md R109): the record is written and the machine is Faulted.
It is applied to the state the execute phase started from, whose `pc` is `this`, so every change of the phase is
discarded; render and tick are skipped by the cycle. `addr` is 0 for the stack faults. -/
def State.takeFault (s : State) (c : FaultCause) (addr : Nat) : State :=
  { s with runState := .faulted, faultCause := c, faultAddr := BitVec.ofNat 17 addr, faultPc := s.pc }

/-- Reset by the host (70_reset_and_hazards.md R260), from any run state; the only way out of Halted and Faulted
(60_exceptions.md R231). The configuration, the host's further moves and the record of events are not the machine's
state and stay (log 19). -/
def State.hostReset (s : State) : State :=
  { State.reset with cfg := s.cfg, host := s.host, draws := s.draws, events := s.events }

/-- A load write above 0xFFF (70_reset_and_hazards.md R264). -/
def State.loadFault (s : State) (a : Nat) : State :=
  { s with runState := .faulted, faultCause := .memRange, faultAddr := BitVec.ofNat 17 a, faultPc := 0x200 }

/-- The bytes of a ROM to ascending addresses; the first above 0xFFF faults, and the bytes already written stay
(70_reset_and_hazards.md R264). -/
def State.loadFrom (s : State) (a : Nat) : List Byte → State
  | [] => s
  | b :: bs => if a > memTop then s.loadFault a else (s.writeByte a b).loadFrom (a + 1) bs

/-- The load port: only in Idle, and always from 0x200 (70_reset_and_hazards.md R264). -/
def State.hostLoad (s : State) (rom : List Byte) : State :=
  if s.runState = .idle then s.loadFrom progBase rom else s

/-- `start`: Idle becomes Running and nothing else changes (70_reset_and_hazards.md R265). -/
def State.hostStart (s : State) : State :=
  if s.runState = .idle then { s with runState := .running } else s

/-- The push of a call (41_control_flow.md R123), for `sp < 16`: the return address to `stack[sp]`, `sp` up by one,
`pc` to the target. -/
def State.pushCall (s : State) (target : Nat) : State :=
  { s with
    stack := s.stack.setIfInBounds s.sp.val s.nextPc
    sp := ⟨min (s.sp.val + 1) 16, by omega⟩
    pc := keepPc s.cfg target }

/-- The entry that a return pops. -/
def State.topOfStack (s : State) : Word := s.stack[s.sp.val - 1]'(by have := s.sp.isLt; omega)

/-- The pop of a return (41_control_flow.md R121), for `sp > 0`: `sp` down by one, `pc` the popped entry as it is, with no
masking: an entry has the width of `pc` (10_state.md R27; D8). -/
def State.popCall (s : State) : State :=
  { s with sp := ⟨s.sp.val - 1, by have := s.sp.isLt; omega⟩, pc := s.topOfStack }

/-- `emit e` (00_scope.md R8). -/
def State.emit (s : State) (e : Event) : State := { s with events := s.events ++ [e] }

/-- The level output `tone` (60_exceptions.md R236). -/
def State.tone (s : State) : Bool := decide (s.st ≠ 0)

/-- The numeric code of a cause, three bits (60_exceptions.md R221). -/
def FaultCause.code : FaultCause → BitVec 3
  | .none => 0
  | .memRange => 1
  | .memReserved => 2
  | .stackOverflow => 3
  | .stackUnderflow => 4

end Sys2Proof.Machine
end

