-- ==== Sys2Proof/Machine/Alu.lean ====
section
/-! DEFINITION. Register load, arithmetic, logic, shift and random (42_load_alu.md). No meaning here can raise a fault
(R140); all operands are read before any register is written. -/

namespace Sys2Proof.Machine

/-- `LD Vx,kk` (R142). -/
def execLdImm (x : Reg) (kk : Byte) (s : State) : Res := .next (s.advance.setReg x kk)

/-- `LD Vx,Vy` (R143). -/
def execLdReg (x y : Reg) (s : State) : Res := .next (s.advance.setReg x (s.reg y))

/-- `ADD Vx,kk` (R144): no flag. -/
def execAddImm (x : Reg) (kk : Byte) (s : State) : Res := .next (s.advance.setReg x (addByte (s.reg x) kk))

/-- `OR Vx,Vy` (R145). -/
def execOrReg (x y : Reg) (s : State) : Res := .next (s.advance.setReg x (s.reg x ||| s.reg y))

/-- `AND Vx,Vy` (R146). -/
def execAndReg (x y : Reg) (s : State) : Res := .next (s.advance.setReg x (s.reg x &&& s.reg y))

/-- `XOR Vx,Vy` (R147). -/
def execXorReg (x y : Reg) (s : State) : Res := .next (s.advance.setReg x (s.reg x ^^^ s.reg y))

/-- `ADD Vx,Vy` (R148). -/
def execAddReg (x y : Reg) (s : State) : Res :=
  .next (s.advance.writeResultAndFlag x (addByte (s.reg x) (s.reg y)) (addCarry (s.reg x) (s.reg y)))

/-- `SUB Vx,Vy` (R149). -/
def execSub (x y : Reg) (s : State) : Res :=
  .next (s.advance.writeResultAndFlag x (subByte (s.reg x) (s.reg y)) (subFlag (s.reg x) (s.reg y)))

/-- `SUBN Vx,Vy` (R150). -/
def execSubn (x y : Reg) (s : State) : Res :=
  .next (s.advance.writeResultAndFlag x (subByte (s.reg y) (s.reg x)) (subFlag (s.reg y) (s.reg x)))

/-- `SHR Vx` (R151): the operand is `V[x]`, never `V[y]`. -/
def execShr (x _y : Reg) (s : State) : Res :=
  .next (s.advance.writeResultAndFlag x (shrByte (s.reg x)) (shrFlag (s.reg x)))

/-- `SHL Vx` (R152): the operand is `V[x]`, never `V[y]`. -/
def execShl (x _y : Reg) (s : State) : Res :=
  .next (s.advance.writeResultAndFlag x (shlByte (s.reg x)) (shlFlag (s.reg x)))

/-- `RND Vx,kk` (R153): `in.rnd` is the input of this cycle, under no law (log 7). -/
def execRnd (x : Reg) (kk : Byte) (s : State) : Res := .next (s.advance.setReg x (s.inp.rnd &&& kk))

end Sys2Proof.Machine
end

