-- ==== Sys2Proof/Machine/Control.lean ====
section
/-! DEFINITION. Control transfer (41_control_flow.md). Each meaning is the whole execute phase of one cycle, the fetch's
advance of `pc` included: on entry `pc = this` (log 10). -/

namespace Sys2Proof.Machine

/-- `RET` (R121). -/
def execRet (_ign : Nibble) (s : State) : Res :=
  if s.sp = 0 then .next (s.takeFault .stackUnderflow 0) else .next s.popCall

/-- `JP addr` (R122). -/
def execJp (nnn : Addr12) (s : State) : Res := .next (s.setPc nnn.toNat)

/-- `CALL addr` (R123). -/
def execCall (nnn : Addr12) (s : State) : Res :=
  if s.sp.val = stackDepth then .next (s.takeFault .stackOverflow 0) else .next (s.pushCall nnn.toNat)

/-- `SE Vx,kk` (R124). -/
def execSeImm (x : Reg) (kk : Byte) (s : State) : Res := .next (s.skipIf (s.reg x == kk))

/-- `SE Vx,Vy` (R125). -/
def execSeReg (x y : Reg) (s : State) : Res := .next (s.skipIf (s.reg x == s.reg y))

/-- `SNE Vx,kk` (R126). -/
def execSneImm (x : Reg) (kk : Byte) (s : State) : Res := .next (s.skipIf (s.reg x != kk))

/-- `SNE Vx,Vy` (R127). -/
def execSneReg (x y : Reg) (s : State) : Res := .next (s.skipIf (s.reg x != s.reg y))

/-- `JP V0,addr` (R128): the sum is not masked. -/
def execJpV0 (nnn : Addr12) (s : State) : Res :=
  .next (s.setPc (nnn.toNat + (s.reg 0).toNat))

end Sys2Proof.Machine
end

