-- ==== Sys2Proof/Machine/Display.lean ====
section
/-! DEFINITION. The display: clear and the sprite compositor (44_display.md). -/

namespace Sys2Proof.Machine

/-- The cell `fb[p]`: column `p mod 64` of row `p div 64` (10_state.md R31). -/
def cellOf (g : Grid) (p : Pixel) : Bool :=
  (g[p.val / 64]'(by have := p.isLt; omega)).getLsbD (p.val % 64)

/-- The grid with one cell toggled. -/
def flipCell (g : Grid) (p : Pixel) : Grid :=
  g.set (p.val / 64) ((g[p.val / 64]'(by have := p.isLt; omega)) ^^^ BitVec.twoPow 64 (p.val % 64))
    (by have := p.isLt; omega)

/-- The grid with every cell 0. -/
def clearGrid : Grid := Vector.replicate 32 0

/-- The display translator (20_memory.md R66): each axis wraps on its own. -/
def cellIndex (vx vy : Byte) (c r : Nat) : Pixel :=
  ⟨(vx.toNat + c) % 64 + (vy.toNat + r) % 32 * 64, by omega⟩

/-- The cells that row `r` of a sprite toggles, left to right: column `c` is bit `7 - c` (44_display.md R192; log 11). -/
def rowCells (vx vy : Byte) (r : Nat) (b : Byte) : List Pixel :=
  (List.range 8).filterMap fun c => if b.getLsbD (7 - c) then some (cellIndex vx vy c r) else none

/-- The cells that a sprite toggles, row by row; `r` is the number of its first row. -/
def spriteCells (vx vy : Byte) (r : Nat) : List Byte → List Pixel
  | [] => []
  | b :: rows => rowCells vx vy r b ++ spriteCells vx vy (r + 1) rows

/-- The toggling of cells one after another; the flag is set when a cell goes from 1 to 0. -/
def drawCells (g : Grid) (collision : Bool) : List Pixel → Grid × Bool
  | [] => (g, collision)
  | p :: ps => drawCells (flipCell g p) (collision || cellOf g p) ps

/-- The display written, and a repaint owed (10_state.md R33). -/
def State.paint (s : State) (g : Grid) : State := { s with fb := g, dirty := true }

/-- `CLS` (R191). -/
def execCls (_ign : Nibble) (s : State) : Res := .next (s.advance.paint clearGrid)

/-- The grid and the flag after a sprite of `n` rows at `I` is drawn at (Vx, Vy). -/
def State.drawn (s : State) (x y : Reg) (n : Nat) : Grid × Bool :=
  drawCells s.fb false (spriteCells (s.reg x) (s.reg y) 0 (s.readBytes s.i.toNat n))

/-- `DRW Vx,Vy,n` (R192): the coordinates, `I` and the rows are read before anything is written. -/
def execDrw (x y : Reg) (n : Nibble) (s : State) : Res :=
  match firstFault readFault s.i.toNat n.toNat with
  | some (c, a) => .next (s.takeFault c a)
  | none => .next ((s.advance.paint (s.drawn x y n.toNat).1).setFlag (s.drawn x y n.toNat).2)

end Sys2Proof.Machine
end

