-- ==== Sys2Proof/Machine/Index.lean ====
section
/-! DEFINITION. The address register, BCD and the block transfers (43_index_memory.md). All accesses of an instruction
are validated before anything changes (20_memory.md R55). -/

namespace Sys2Proof.Machine

/-- `LD I,addr` (R171). -/
def execLdI (nnn : Addr12) (s : State) : Res := .next (s.advance.setI (nnn.setWidth 16))

/-- The exact sum of `ADD I,Vx`, 0 to 0x100FE. -/
def addISum (s : State) (x : Reg) : Nat := s.i.toNat + (s.reg x).toNat

/-- `ADD I,Vx` (R172): VF is written only under ADDI_VF. -/
def execAddI (x : Reg) (s : State) : Res :=
  let t := s.advance.setI (wrapI s.cfg (addISum s x))
  .next (if s.cfg.addiVf then t.setFlag (addIFlag (addISum s x)) else t)

/-- `LD F,Vx` (R173): the value is not reduced to 4 bits. -/
def execLdF (x : Reg) (s : State) : Res := .next (s.advance.setI (BitVec.ofNat 16 ((s.reg x).toNat * 5)))

/-- The three decimal digits of a byte, hundreds first (R174). -/
def bcdDigits (b : Byte) : List Byte :=
  [BitVec.ofNat 8 (b.toNat / 100), BitVec.ofNat 8 (b.toNat / 10 % 10), BitVec.ofNat 8 (b.toNat % 10)]

/-- A store of bytes from `I` upwards, validated whole before any byte is written (20_memory.md R54, R55). -/
def State.storeAtI (s : State) (bytes : List Byte) (andThen : State → State) : Res :=
  match firstFault (writeFault s.cfg) s.i.toNat bytes.length with
  | some (c, a) => .next (s.takeFault c a)
  | none => .next (andThen (s.advance.writeBytes s.i.toNat bytes))

/-- `LD B,Vx` (R174): `I` is unchanged. -/
def execLdB (x : Reg) (s : State) : Res := s.storeAtI (bcdDigits (s.reg x)) id

/-- The advance of `I` by `x + 1` after a block transfer, under LDST_ADVANCE_I only (R175, R176). -/
def State.advanceI (s : State) (x : Reg) : State :=
  if s.cfg.ldstAdvanceI then s.setI (wrapI s.cfg (s.i.toNat + x.val + 1)) else s

/-- V0 to Vx, inclusive. -/
def State.regsTo (s : State) (x : Reg) : List Byte := s.v.toList.take (x.val + 1)

/-- `LD [I],Vx` (R175). -/
def execStoreRegs (x : Reg) (s : State) : Res := s.storeAtI (s.regsTo x) fun t => t.advanceI x

/-- V0 to Vx, inclusive, from memory at ascending addresses from `a`. -/
def State.loadRegsFrom (s : State) (x : Reg) (a : Nat) : State :=
  { s with v := Vector.ofFn fun r => if r ≤ x then s.readByte (a + r.val) else s.v[r] }

/-- `LD Vx,[I]` (R176): reads are never restricted to program space. -/
def execLoadRegs (x : Reg) (s : State) : Res :=
  match firstFault readFault s.i.toNat (x.val + 1) with
  | some (c, a) => .next (s.takeFault c a)
  | none => .next ((s.advance.loadRegsFrom x s.i.toNat).advanceI x)

end Sys2Proof.Machine
end

