-- ==== Sys2Proof/Machine/Input.lean ====
section
/-! DEFINITION. The keypad and the timers (45_timer_input.md). The key set is the one polled in the same cycle. -/

namespace Sys2Proof.Machine

/-- `SKP Vx` (R201). -/
def execSkp (x : Reg) (s : State) : Res := .next (s.skipIf (s.keyDown (s.reg x)))

/-- `SKNP Vx` (R202). -/
def execSknp (x : Reg) (s : State) : Res := .next (s.skipIf (!s.keyDown (s.reg x)))

/-- `LD Vx,DT` (R203). -/
def execLdVxDt (x : Reg) (s : State) : Res := .next (s.advance.setReg x s.dt)

/-- `LD DT,Vx` (R204). -/
def execLdDtVx (x : Reg) (s : State) : Res := .next (s.advance.setDt (s.reg x))

/-- `LD ST,Vx` (R205). -/
def execLdStVx (x : Reg) (s : State) : Res := .next (s.advance.setSt (s.reg x))

/-- `LD Vx,K` (R206): with no key down `pc` stays at `this` and the same word is fetched in the next cycle; no private
wait state exists (40_cycle_and_fetch.md R111). -/
def execLdVxK (x : Reg) (s : State) : Res :=
  if s.keys = 0 then .next s
  else .next (s.advance.setReg x (BitVec.ofNat 8 (keySelect s.cfg s.keys).val))

end Sys2Proof.Machine
end

