-- ==== Sys2Proof/Machine/Unknown.lean ====
section
/-! DEFINITION. The UNKNOWN fallback (40_cycle_and_fetch.md R110): an event and nothing else. -/

namespace Sys2Proof.Machine

/-- `UNKNOWN`: emits `unknown(W, this)`; `pc` stays at `next`. -/
def execUnknown (w : Word) (s : State) : Res := .next (s.advance.emit (.unknown w s.pc))

end Sys2Proof.Machine
end

