-- ==== Sys2Proof/Machine/Cycle.lean ====
section
/-! DEFINITION. The cycle (40_cycle_and_fetch.md R102): quit, poll, fetch and execute, render, tick; and what one step of
the machine is (log 7, 20). -/

namespace Sys2Proof.Machine

/-- Quit (R103): the cycle does nothing but enter Halted. -/
def State.halt (s : State) : State := { s with runState := .halted }

/-- The poll phase (R104): all 16 bits of `K` are replaced. The cycle's inputs are kept for RND and the tick phase. -/
def State.poll (s : State) (inp : CycleIn) : State := { s with inp := inp, keys := inp.keys }

/-- The fetch (R106, 20_memory.md R57): the big-endian word at `pc`, or the fault of the first address out of range. -/
def State.fetch (s : State) : Except (FaultCause × Nat) Word :=
  match firstFault readFault s.pc.toNat 2 with
  | some e => .error e
  | none => .ok (wordOfBytes (s.readByte s.pc.toNat) (s.readByte (s.pc.toNat + 1)))

/-- The execute phase (R105): one fetch, one decode, one handler. -/
def State.execute (s : State) : Res :=
  match s.fetch with
  | .error (c, a) => .next (s.takeFault c a)
  | .ok w => exec (decode w) s

/-- The render phase (R107). -/
def State.render (s : State) : State :=
  if s.dirty then { s.emit (.present s.fb) with dirty := false } else s

/-- A timer one tick on: down by one, clamped at 0 (R108). -/
def tickDown (b : Byte) : Byte := if b = 0 then 0 else b - 1

/-- The tick phase (R108): both timers use the same tick; `tone_stop` when `ST` goes from 1 to 0. -/
def State.tick (s : State) : State :=
  if s.inp.tick then
    let t := if s.st = 1 then s.emit .toneStop else s
    { t with dt := tickDown s.dt, st := tickDown s.st }
  else s

/-- What follows the execute phase: render and tick, both skipped when it faulted (R109). -/
def State.finish (s : State) : State := if s.runState = .faulted then s else s.render.tick

/-- One cycle while Running (R102). -/
def State.cycle (s : State) (inp : CycleIn) : Res :=
  if inp.quit then .next s.halt
  else
    match (s.poll inp).execute with
    | .next t => .next t.finish
    | .fault r => .fault r
    | .refused r => .refused r

/-- A host move that drives a cycle: it runs while Running and is ignored otherwise (R100). -/
def State.cycleIfRunning (s : State) (inp : CycleIn) : Res :=
  if s.runState = .running then s.cycle inp else .next s

/-- One host move (70_reset_and_hazards.md R273). -/
def State.hostMove (s : State) : HostMove → Res
  | .reset => .next s.hostReset
  | .load rom => .next (s.hostLoad rom)
  | .start => .next s.hostStart
  | .cycle inp => s.cycleIfRunning inp

/-- One step: the host's next move; past the end of its list a Running machine goes on with free inputs, and a machine
in Idle, Halted or Faulted stays as it is (R100, log 7). -/
def State.stepOnce (s : State) : Res :=
  match s.host with
  | move :: rest => { s with host := rest }.hostMove move
  | [] =>
    if s.runState = .running then { s with draws := s.draws + 1 }.cycle (Config.freeInput s.draws) else .next s

end Sys2Proof.Machine
end

