-- ==== Sys2Proof/Machine/Step.lean ====
section
/-! DEFINITION. The step of the machine, and the state whose next step runs a given instruction. -/

namespace Sys2Proof.Machine

/-- One step of the machine (40_cycle_and_fetch.md R102; Cycle.lean). -/
def step (s : State) : Host.Outcome State Fault Refusal := s.stepOnce

/-- Where the next fetch reads: `pc`, or the entry point 0x200 when no word can be fetched at `pc`. -/
def State.fetchPlace (s : State) : Word := if s.pc.toNat ≤ 0xFFE then s.pc else 0x200

/-- The state with the word of the low `nbits` bits of `w` stored where the next fetch reads, Running, and with one
cycle of quiet inputs to come first, so that the very next step runs that instruction. It stands for the host's load and
start (log 15). -/
def State.withFetchWord (s : State) (nbits w : Nat) : State :=
  { s.writeBytes s.fetchPlace.toNat (bytesOfWord (BitVec.ofNat 16 (w % 2 ^ nbits))) with
    pc := s.fetchPlace
    runState := .running
    host := .cycle CycleIn.quiet :: s.host }

end Sys2Proof.Machine
end

