-- ==== Sys2Proof/Safety.lean ====
section
/-! DEFINITION. What a safe run is, in the terms claims use: a Faulted state is never final (60_exceptions.md R226); the
premises that hold between cycles (10_state.md R43); the launch state (70_reset_and_hazards.md R267). -/

namespace Sys2Proof.Machine

/-- The fault record belongs to its cause (60_exceptions.md R221): no address but for the memory faults, an address
above memory for cause 1, an address of the reserved region for cause 2. -/
def State.recordFits (s : State) : Prop :=
  match s.faultCause with
  | .memRange => 0x1000 ≤ s.faultAddr.toNat ∧ s.faultAddr.toNat ≤ 0x1000E
  | .memReserved => s.faultAddr.toNat ≤ reservedEnd
  | _ => s.faultAddr = 0

/-- What holds between cycles (10_state.md R43, and what R24, R27, R33 and R36 say of `pc`, the stack, `dirty` and the
fault record). -/
structure Inv (s : State) : Prop where
  /-- memory is in canonical form and has no address above 0xFFF -/
  memory : s.memWf
  /-- no repaint is owed (R33) -/
  clean : s.dirty = false
  /-- `I` keeps 12 bits under ADDI_MASK12 (R26) -/
  index : s.cfg.addiMask12 = true → s.i.toNat ≤ 0xFFF
  /-- `pc` is at most 0xFFF + 0xFF, the largest value a rule gives it (R24, R25) -/
  counter : s.pc.toNat ≤ 0x10FE
  /-- `pc` has PC_WIDTH bits (R24) -/
  counterFits : s.pc.toNat < 2 ^ s.cfg.pcWidth.val
  /-- a return address is at most 0xFFE + 2 -/
  returns : ∀ j : Fin 16, (s.stack[j]).toNat ≤ 0x1000
  /-- a stack entry has PC_WIDTH bits (R27; 92_eei_decisions.md D8) -/
  returnsFit : ∀ j : Fin 16, (s.stack[j]).toNat < 2 ^ s.cfg.pcWidth.val
  /-- the reserved region keeps its reset contents unless stores into it are performed (R43, R56) -/
  reserved : s.cfg.reservedWrite = .fault → ∀ a, a ≤ reservedEnd → s.readByte a = resetByte s.cfg a
  /-- a fault is recorded exactly in Faulted (R36) -/
  recorded : s.runState = .faulted ↔ s.faultCause ≠ .none
  /-- the recorded address belongs to the cause (R221) -/
  record : s.recordFits

/-- A run of `k` steps that ends in a state that may be claimed about: it is not Faulted. -/
def SafeRun (k : Nat) (s t : State) : Prop := Host.Core.run core k s = .next t ∧ t.runState ≠ .faulted

/-- The state from which the host loads a ROM, starts, and goes on with further moves. -/
def bootWith (rom : List Byte) (rest : List HostMove) : State :=
  { State.reset with host := .load rom :: .start :: rest }

end Sys2Proof.Machine
end

