-- ==== Sys2Proof/Certificates/Slice0/Obligations.lean ====
section
/-! DEFINITION. The statements for the provers, and the words they are written in: the parts of the state, what is the
same in two states, frames, fault entry. An instruction's statement speaks of `exec` on the state of its execute phase
with `pc = this` (log 10). -/

namespace Sys2Proof.Claims

open Sys2Proof.Machine

/-- The parts of the state. -/
inductive Part where
  | reg (r : Reg)
  | pc
  | i
  | entry (j : Fin 16)
  | sp
  | dt
  | st
  | byte (a : Nat)
  | cell (p : Pixel)
  | dirty
  | keys
  | runState
  | faultRecord
  | cfg
  | inp
  | host
  | draws
  | events
  deriving DecidableEq, Repr

/-- The part is the same in both states; a byte of memory by reading it, a cell of the display by reading it. -/
def Same (s t : State) : Part → Prop
  | .reg r => t.reg r = s.reg r
  | .pc => t.pc = s.pc
  | .i => t.i = s.i
  | .entry j => t.stack[j] = s.stack[j]
  | .sp => t.sp = s.sp
  | .dt => t.dt = s.dt
  | .st => t.st = s.st
  | .byte a => t.readByte a = s.readByte a
  | .cell p => cellOf t.fb p = cellOf s.fb p
  | .dirty => t.dirty = s.dirty
  | .keys => t.keys = s.keys
  | .runState => t.runState = s.runState
  | .faultRecord => t.faultCause = s.faultCause ∧ t.faultAddr = s.faultAddr ∧ t.faultPc = s.faultPc
  | .cfg => t.cfg = s.cfg
  | .inp => t.inp = s.inp
  | .host => t.host = s.host
  | .draws => t.draws = s.draws
  | .events => t.events = s.events

/-- Every part is the same but those that may change. -/
def Frame (s t : State) (may : Part → Prop) : Prop := ∀ p, ¬ may p → Same s t p

/-- `n` bytes of memory from `a` upwards. -/
def bytesFrom (a n : Nat) (p : Part) : Prop := ∃ k, k < n ∧ p = .byte (a + k)

/-- The word with this number decodes to this instruction. -/
def decodesTo (n : Nat) (i : Instr) : Prop := decode (BitVec.ofNat 16 n) = i

/-- Fault entry out of `s` (60_exceptions.md R226, 40_cycle_and_fetch.md R109; the spec's decisions D18 and D27): the
record, Faulted, and nothing else changed; `pc` still holds `this`. A claim about a program reads no register of a
Faulted state (R226, log 9). -/
def FaultEntry (s : State) (c : FaultCause) (a : Nat) (t : State) : Prop :=
  t.runState = .faulted ∧ t.faultCause = c ∧ t.faultAddr.toNat = a ∧ t.faultPc = s.pc ∧
    Frame s t (· ∈ [Part.runState, .faultRecord])

/-- WriteResultAndFlag (42_load_alu.md R141) as the registers show it. -/
def ResultAndFlag (s t : State) (x : Reg) (r : Nat) (f : Bool) : Prop :=
  (x ≠ 15 → (t.reg x).toNat = r ∧ (t.reg 15).toNat = if f then 1 else 0) ∧
  (x = 15 → s.cfg.vfPriority = .flag → (t.reg 15).toNat = if f then 1 else 0) ∧
  (x = 15 → s.cfg.vfPriority = .result → (t.reg 15).toNat = r)

/-- What `pc` keeps of a value written to it: PC_WIDTH bits (10_state.md R24; 92_eei_decisions.md D3; log 1). All of it at
13 bits or more (`WideCountersAreAlike`). -/
def pcKeeps (c : Config) (v : Nat) : Nat := v % 2 ^ c.pcWidth.val

/-- `next` (00_scope.md R8): `this + 2`, as `pc` keeps it. -/
def nextOf (s : State) : Word := BitVec.ofNat 16 (pcKeeps s.cfg (s.pc.toNat + 2))

/-- `pc` after a taken skip: `this + 4` (41_control_flow.md R124), as `pc` keeps it. -/
def skipOf (s : State) : Word := BitVec.ofNat 16 (pcKeeps s.cfg (s.pc.toNat + 4))

/-- The state with another PC_WIDTH. -/
def withPcWidth (s : State) (w : PcWidth) : State := { s with cfg := { s.cfg with pcWidth := w } }

/-- `wrapI` (43_index_memory.md R170). -/
def wrapped (c : Config) (v : Nat) : Nat := if c.addiMask12 then v % 4096 else v % 65536

/-- A read of the address fails (20_memory.md R53). -/
def readBad (b : Nat) : Prop := b > 0xFFF

/-- An instruction's store to the address fails (20_memory.md R54, R56). -/
def storeBad (c : Config) (b : Nat) : Prop := b > 0xFFF ∨ (b ≤ 0x1FF ∧ c.reservedWrite = .fault)

/-- `b` is the lowest failing address of `n` from `a` (60_exceptions.md R227). -/
def LowestBad (bad : Nat → Prop) (a n b : Nat) : Prop :=
  a ≤ b ∧ b < a + n ∧ bad b ∧ ∀ k, a ≤ k → k < b → ¬ bad k

/-- The cause of a failing address: above memory, or in the reserved region. -/
def causeOf (b : Nat) : FaultCause := if b > 0xFFF then .memRange else .memReserved

/-- A bit of the sprite that is 1 falls on the cell: row `r`, column `c` of the sprite of `n` rows at `I`, drawn at
(Vx, Vy), each axis wrapping on its own (20_memory.md R66, 44_display.md R192). -/
def spriteCovers (s : State) (x y : Reg) (n : Nat) (p : Pixel) : Prop :=
  ∃ r c, r < n ∧ c < 8 ∧ (s.readByte (s.i.toNat + r)).getLsbD (7 - c) = true ∧
    p.val = ((s.reg x).toNat + c) % 64 + ((s.reg y).toNat + r) % 32 * 64

/-- The value is in the pressed-key set (45_timer_input.md R201). -/
def pressed (s : State) (v : Nat) : Prop := v ≤ 15 ∧ s.keys.getLsbD v = true

/-- The inputs of the cycle that the next step runs, if it runs one. -/
def cycleInput (s : State) : Option CycleIn :=
  match s.host with
  | .cycle inp :: _ => some inp
  | [] => some (Config.freeInput s.draws)
  | _ => none

/-- The state of the execute phase in a cycle with the inputs `inp`, when `rest` of the host's moves remain. -/
def polled (s : State) (inp : CycleIn) (rest : List HostMove) : State :=
  { s with host := rest, inp := inp, keys := inp.keys }

/-- The word the next fetch reads (20_memory.md R57), for a `pc` of at most 0xFFE. -/
def wordAtPc (s : State) : Word :=
  BitVec.ofNat 16 ((s.readByte s.pc.toNat).toNat * 256 + (s.readByte (s.pc.toNat + 1)).toNat)

/-- Which part of the state an instruction may write besides `pc`, in a state `s` (10_state.md R40). -/
def mayWrite (s : State) : Instr → Part → Prop
  | .cls _, p => p = .dirty ∨ ∃ q, p = .cell q
  | .ret _, p => p = .sp
  | .jp _, _ => False
  | .call _, p => p = .sp ∨ ∃ j : Fin 16, j.val = s.sp.val ∧ p = .entry j
  | .seImm _ _, _ => False
  | .seReg _ _, _ => False
  | .sneImm _ _, _ => False
  | .sneReg _ _, _ => False
  | .ldImm x _, p => p = .reg x
  | .ldReg x _, p => p = .reg x
  | .addImm x _, p => p = .reg x
  | .orReg x _, p => p = .reg x
  | .andReg x _, p => p = .reg x
  | .xorReg x _, p => p = .reg x
  | .addReg x _, p => p = .reg x ∨ p = .reg 15
  | .sub x _, p => p = .reg x ∨ p = .reg 15
  | .subn x _, p => p = .reg x ∨ p = .reg 15
  | .shr x _, p => p = .reg x ∨ p = .reg 15
  | .shl x _, p => p = .reg x ∨ p = .reg 15
  | .ldI _, p => p = .i
  | .jpV0 _, _ => False
  | .rnd x _, p => p = .reg x
  | .drw _ _ _, p => p = .reg 15 ∨ p = .dirty ∨ ∃ q, p = .cell q
  | .skp _, _ => False
  | .sknp _, _ => False
  | .ldVxDt x, p => p = .reg x
  | .ldDtVx _, p => p = .dt
  | .ldStVx _, p => p = .st
  | .ldVxK x, p => p = .reg x
  | .addI _, p => p = .i ∨ (s.cfg.addiVf = true ∧ p = .reg 15)
  | .ldF _, p => p = .i
  | .ldB _, p => bytesFrom s.i.toNat 3 p
  | .storeRegs x, p => bytesFrom s.i.toNat (x.val + 1) p ∨ (s.cfg.ldstAdvanceI = true ∧ p = .i)
  | .loadRegs x, p => (∃ r : Reg, r ≤ x ∧ p = .reg r) ∨ (s.cfg.ldstAdvanceI = true ∧ p = .i)
  | .unknown _, p => p = .events

/-- What an instruction's handler can raise (60_exceptions.md R242). -/
def mayRaise : Instr → FaultCause → Prop
  | .ret _, c => c = .stackUnderflow
  | .call _, c => c = .stackOverflow
  | .drw _ _ _, c => c = .memRange
  | .ldB _, c => c = .memRange ∨ c = .memReserved
  | .storeRegs _, c => c = .memRange ∨ c = .memReserved
  | .loadRegs _, c => c = .memRange
  | _, _ => False

/-- The instructions that write VF as a flag (10_state.md R23), where the flag is what VF keeps: for the five that also
write a result, when the result goes elsewhere or VF_PRIORITY is flag. -/
def writesFlag (c : Config) : Instr → Prop
  | .addReg x _ => x ≠ 15 ∨ c.vfPriority = .flag
  | .sub x _ => x ≠ 15 ∨ c.vfPriority = .flag
  | .subn x _ => x ≠ 15 ∨ c.vfPriority = .flag
  | .shr x _ => x ≠ 15 ∨ c.vfPriority = .flag
  | .shl x _ => x ≠ 15 ∨ c.vfPriority = .flag
  | .drw _ _ _ => True
  | .addI _ => c.addiVf = true
  | _ => False

/-- The values of 10_state.md R39, with the FONT of the state's configuration. -/
def ResetValues (t : State) : Prop :=
  (∀ a, t.readByte a = if h : a < 80 then t.cfg.font[a] else 0) ∧ t.pc = 0x200 ∧ t.runState = .idle ∧
  (∀ x, t.reg x = 0) ∧ t.i = 0 ∧ t.sp = 0 ∧ (∀ j : Fin 16, t.stack[j] = 0) ∧ t.dt = 0 ∧ t.st = 0 ∧
  (∀ p, cellOf t.fb p = false) ∧ t.dirty = false ∧ t.keys = 0 ∧
  t.faultCause = .none ∧ t.faultAddr = 0 ∧ t.faultPc = 0

/-- Parts that no instruction reads (10_state.md R29, R33, R36, R42). -/
def unread (p : Part) : Prop :=
  p ∈ [Part.st, .dirty, .runState, .faultRecord, .host, .draws, .events]

end Sys2Proof.Claims

open Sys2Proof Sys2Proof.Machine Sys2Proof.Claims

/-! ## Reset, decode, encode -/

/-- 10_state.md R39: the table of reset values. Most of its values are the spec's own choice (log 6). -/
def Obligations.ResetLeavesListedValues : Prop := ResetValues State.reset

/-- The premises of 10_state.md R43 hold at reset. -/
def Obligations.InvariantAtReset : Prop := Inv State.reset

/-- The words the source prints (30_encoding.md R87), one word of each other family from R86, and one of the unknown
space. -/
def Obligations.PrintedWordsDecode : Prop :=
  decode 0x6005 = .ldImm 0 0x05 ∧ decode 0x6103 = .ldImm 1 0x03 ∧ decode 0x8015 = .sub 0 1 ∧
  decode 0x5001 = .unknown 0x5001 ∧ decode 0x1ABC = .jp 0xABC ∧ decode 0xD125 = .drw 1 2 5 ∧
  decode 0xE39E = .skp 3 ∧ decode 0xF155 = .storeRegs 1 ∧ decode 0x01E0 = .cls 1

/-- For every well-formed instruction of every family, with every operand the encoding admits. -/
def Obligations.DecodeUndoesEncode : Prop := ∀ i : Instr, i.wellFormed = true → decode (encode i) = i

/-- Every word is the encoding of the one well-formed instruction it decodes to: decoding drops no bit. -/
def Obligations.EncodeUndoesDecode : Prop := ∀ w : Word, (decode w).wellFormed = true ∧ encode (decode w) = w

/-- 30_encoding.md R86, R85: a word selects a row exactly when it meets the row's match value under its mask, so no
word meets two rows; a word that selects none is UNKNOWN and carries itself. -/
def Obligations.DecodeSelectsTheMatchingRow : Prop :=
  (∀ (w : Word) (i : Instr) (m k : Word), rowOf i = some (m, k) →
    (w &&& k = m ↔ rowOf (decode w) = some (m, k))) ∧
  ∀ w : Word, rowOf (decode w) = none ↔ decode w = .unknown w

/-- 30_encoding.md R88: the unknown space, family by family. -/
def Obligations.UnknownSpaceByFamily : Prop :=
  ∀ w : Word, decode w = .unknown w ↔
    (let family := w.toNat / 4096; let low := w.toNat % 256; let nibble := w.toNat % 16
     (family = 0x0 ∧ low ≠ 0xE0 ∧ low ≠ 0xEE) ∨ (family = 0x5 ∧ 1 ≤ nibble) ∨
     (family = 0x8 ∧ 8 ≤ nibble ∧ nibble ≠ 0xE) ∨ (family = 0x9 ∧ 1 ≤ nibble) ∨
     (family = 0xE ∧ low ≠ 0x9E ∧ low ≠ 0xA1) ∨
     (family = 0xF ∧ low ∉ [0x07, 0x0A, 0x15, 0x18, 0x1E, 0x29, 0x33, 0x55, 0x65]))

/-! ## Control transfer (41_control_flow.md) -/

/-- R121 RET. -/
def Obligations.ReturnPopsTheStack : Prop :=
  ∀ (ign : Nibble) (s : State),
    decodesTo (ign.toNat * 0x100 + 0xEE) (.ret ign) ∧
    (∀ j : Fin 16, s.sp.val = j.val + 1 → ∃ t, exec (.ret ign) s = .next t ∧
      t.sp.val = j.val ∧ t.pc = s.stack[j] ∧ Frame s t (· ∈ [Part.sp, .pc])) ∧
    (s.sp = 0 → ∃ t, exec (.ret ign) s = .next t ∧ FaultEntry s .stackUnderflow 0 t)

/-- R123 CALL. -/
def Obligations.CallPushesTheNextAddress : Prop :=
  ∀ (nnn : Addr12) (s : State),
    decodesTo (0x2000 + nnn.toNat) (.call nnn) ∧
    (∀ j : Fin 16, s.sp.val = j.val → ∃ t, exec (.call nnn) s = .next t ∧
      t.stack[j] = nextOf s ∧ t.sp.val = j.val + 1 ∧ t.pc.toNat = pcKeeps s.cfg nnn.toNat ∧
      Frame s t (· ∈ [Part.entry j, .sp, .pc])) ∧
    (s.sp.val = 16 → ∃ t, exec (.call nnn) s = .next t ∧ FaultEntry s .stackOverflow 0 t)

/-- "CALL then RET restores program_counter to the instruction immediately after the CALL" (R123): whatever the callee
did, if it left the depth and the pushed entry as the CALL made them. -/
def Obligations.ReturnComesBackAfterTheCall : Prop :=
  ∀ (nnn : Addr12) (ign : Nibble) (s t u : State) (j : Fin 16), s.sp.val = j.val →
    exec (.call nnn) s = .next t → u.sp = t.sp → u.stack[j] = t.stack[j] →
    ∃ w, exec (.ret ign) u = .next w ∧ w.pc = nextOf s ∧ w.sp = s.sp ∧ Frame u w (· ∈ [Part.sp, .pc])

/-- R122 JP addr. -/
def Obligations.JumpGoesToItsAddress : Prop :=
  ∀ (nnn : Addr12) (s : State), decodesTo (0x1000 + nnn.toNat) (.jp nnn) ∧
    ∃ t, exec (.jp nnn) s = .next t ∧ t.pc.toNat = pcKeeps s.cfg nnn.toNat ∧ Frame s t (· ∈ [Part.pc])

/-- R128 JP V0,addr: no masking; the width of `pc` is PC_WIDTH (the spec's decision D3). -/
def Obligations.ComputedJumpAddsV0 : Prop :=
  ∀ (nnn : Addr12) (s : State), decodesTo (0xB000 + nnn.toNat) (.jpV0 nnn) ∧
    ∃ t, exec (.jpV0 nnn) s = .next t ∧ t.pc.toNat = pcKeeps s.cfg (nnn.toNat + (s.reg 0).toNat) ∧ Frame s t (· ∈ [Part.pc])

/-- R124 SE Vx,kk and R126 SNE Vx,kk. -/
def Obligations.ImmediateSkips : Prop :=
  ∀ (x : Reg) (kk : Byte) (s : State),
    decodesTo (0x3000 + x.val * 0x100 + kk.toNat) (.seImm x kk) ∧
    decodesTo (0x4000 + x.val * 0x100 + kk.toNat) (.sneImm x kk) ∧
    (∃ t, exec (.seImm x kk) s = .next t ∧
      t.pc = (if (s.reg x).toNat = kk.toNat then skipOf s else nextOf s) ∧ Frame s t (· ∈ [Part.pc])) ∧
    (∃ t, exec (.sneImm x kk) s = .next t ∧
      t.pc = (if (s.reg x).toNat ≠ kk.toNat then skipOf s else nextOf s) ∧ Frame s t (· ∈ [Part.pc]))

/-- R125 SE Vx,Vy and R127 SNE Vx,Vy; a word of family 5 or 9 with a low nibble other than 0 is UNKNOWN. -/
def Obligations.RegisterSkips : Prop :=
  ∀ (x y : Reg) (s : State),
    decodesTo (0x5000 + x.val * 0x100 + y.val * 0x10) (.seReg x y) ∧
    decodesTo (0x9000 + x.val * 0x100 + y.val * 0x10) (.sneReg x y) ∧
    (∀ n, 1 ≤ n → n ≤ 15 → ∀ f, f = 0x5000 ∨ f = 0x9000 →
      decodesTo (f + x.val * 0x100 + y.val * 0x10 + n)
        (.unknown (BitVec.ofNat 16 (f + x.val * 0x100 + y.val * 0x10 + n)))) ∧
    (∃ t, exec (.seReg x y) s = .next t ∧
      t.pc = (if (s.reg x).toNat = (s.reg y).toNat then skipOf s else nextOf s) ∧ Frame s t (· ∈ [Part.pc])) ∧
    (∃ t, exec (.sneReg x y) s = .next t ∧
      t.pc = (if (s.reg x).toNat ≠ (s.reg y).toNat then skipOf s else nextOf s) ∧ Frame s t (· ∈ [Part.pc]))

/-! ## Load, arithmetic, logic, shift, random (42_load_alu.md) -/

/-- R142 LD Vx,kk and R143 LD Vx,Vy. What a `pc` of 10 to 12 bits keeps of `next` is a choice (D3, log 1). -/
def Obligations.RegisterLoads : Prop :=
  ∀ (x y : Reg) (kk : Byte) (s : State),
    decodesTo (0x6000 + x.val * 0x100 + kk.toNat) (.ldImm x kk) ∧
    decodesTo (0x8000 + x.val * 0x100 + y.val * 0x10) (.ldReg x y) ∧
    (∃ t, exec (.ldImm x kk) s = .next t ∧ t.reg x = kk ∧ t.pc = nextOf s ∧ Frame s t (· ∈ [Part.reg x, .pc])) ∧
    (∃ t, exec (.ldReg x y) s = .next t ∧ t.reg x = s.reg y ∧ t.pc = nextOf s ∧ Frame s t (· ∈ [Part.reg x, .pc]))

/-- R144 ADD Vx,kk: modulo 256, no flag effect. What a `pc` of 10 to 12 bits keeps of `next` is a choice (D3, log 1). -/
def Obligations.AddImmediateWrapsWithoutFlag : Prop :=
  ∀ (x : Reg) (kk : Byte) (s : State), decodesTo (0x7000 + x.val * 0x100 + kk.toNat) (.addImm x kk) ∧
    ∃ t, exec (.addImm x kk) s = .next t ∧ (t.reg x).toNat = ((s.reg x).toNat + kk.toNat) % 256 ∧
      t.pc = nextOf s ∧ Frame s t (· ∈ [Part.reg x, .pc])

/-- R145 OR, R146 AND, R147 XOR, bit by bit; VF is left as it was. What a `pc` of 10 to 12 bits keeps of `next` is a
choice (D3, log 1). -/
def Obligations.LogicIsBitwise : Prop :=
  ∀ (x y : Reg) (s : State),
    decodesTo (0x8001 + x.val * 0x100 + y.val * 0x10) (.orReg x y) ∧
    decodesTo (0x8002 + x.val * 0x100 + y.val * 0x10) (.andReg x y) ∧
    decodesTo (0x8003 + x.val * 0x100 + y.val * 0x10) (.xorReg x y) ∧
    (∃ t, exec (.orReg x y) s = .next t ∧
      (∀ b, (t.reg x).getLsbD b = ((s.reg x).getLsbD b || (s.reg y).getLsbD b)) ∧
      t.pc = nextOf s ∧ Frame s t (· ∈ [Part.reg x, .pc])) ∧
    (∃ t, exec (.andReg x y) s = .next t ∧
      (∀ b, (t.reg x).getLsbD b = ((s.reg x).getLsbD b && (s.reg y).getLsbD b)) ∧
      t.pc = nextOf s ∧ Frame s t (· ∈ [Part.reg x, .pc])) ∧
    (∃ t, exec (.xorReg x y) s = .next t ∧
      (∀ b, (t.reg x).getLsbD b = ((s.reg x).getLsbD b ^^ (s.reg y).getLsbD b)) ∧
      t.pc = nextOf s ∧ Frame s t (· ∈ [Part.reg x, .pc]))

/-- ADD Vx,Vy (R148). Where x = 15 the two writes meet, and VF_PRIORITY decides: R141, the spec's own decision D13
(log 2, 22). -/
def Obligations.AddRegistersSetsCarry : Prop :=
  ∀ (x y : Reg) (s : State), decodesTo (0x8004 + x.val * 0x100 + y.val * 0x10) (.addReg x y) ∧
    ∃ t, exec (.addReg x y) s = .next t ∧
      ResultAndFlag s t x (((s.reg x).toNat + (s.reg y).toNat) % 256)
        (decide ((s.reg x).toNat + (s.reg y).toNat > 255)) ∧
      t.pc = nextOf s ∧ Frame s t (· ∈ [Part.reg x, .reg 15, .pc])

/-- SUB Vx,Vy (R149) and SUBN Vx,Vy (R150): the flag is the strict comparison. Where x = 15 VF_PRIORITY decides: R141, the
spec's own decision D13 (log 2, 22). -/
def Obligations.SubtractionsSetTheStrictFlag : Prop :=
  ∀ (x y : Reg) (s : State),
    decodesTo (0x8005 + x.val * 0x100 + y.val * 0x10) (.sub x y) ∧
    decodesTo (0x8007 + x.val * 0x100 + y.val * 0x10) (.subn x y) ∧
    (∃ t, exec (.sub x y) s = .next t ∧
      ResultAndFlag s t x (((s.reg x).toNat + 256 - (s.reg y).toNat) % 256)
        (decide ((s.reg x).toNat > (s.reg y).toNat)) ∧
      t.pc = nextOf s ∧ Frame s t (· ∈ [Part.reg x, .reg 15, .pc])) ∧
    (∃ t, exec (.subn x y) s = .next t ∧
      ResultAndFlag s t x (((s.reg y).toNat + 256 - (s.reg x).toNat) % 256)
        (decide ((s.reg y).toNat > (s.reg x).toNat)) ∧
      t.pc = nextOf s ∧ Frame s t (· ∈ [Part.reg x, .reg 15, .pc]))

/-- SHR Vx (R151) and SHL Vx (R152): the operand is Vx, whatever `y` is; the flag is the bit shifted out. Where x = 15
VF_PRIORITY decides: R141, the spec's own decision D13 (log 2, 22). -/
def Obligations.ShiftsSetTheBitShiftedOut : Prop :=
  ∀ (x y : Reg) (s : State),
    decodesTo (0x8006 + x.val * 0x100 + y.val * 0x10) (.shr x y) ∧
    decodesTo (0x800E + x.val * 0x100 + y.val * 0x10) (.shl x y) ∧
    (∃ t, exec (.shr x y) s = .next t ∧
      ResultAndFlag s t x ((s.reg x).toNat / 2) (decide ((s.reg x).toNat % 2 = 1)) ∧
      t.pc = nextOf s ∧ Frame s t (· ∈ [Part.reg x, .reg 15, .pc])) ∧
    (∃ t, exec (.shl x y) s = .next t ∧
      ResultAndFlag s t x ((s.reg x).toNat * 2 % 256) (decide ((s.reg x).toNat / 128 = 1)) ∧
      t.pc = nextOf s ∧ Frame s t (· ∈ [Part.reg x, .reg 15, .pc]))

/-- R153 RND Vx,kk, for every value of `in.rnd`. -/
def Obligations.RandomByteIsMasked : Prop :=
  ∀ (x : Reg) (kk : Byte) (s : State), decodesTo (0xC000 + x.val * 0x100 + kk.toNat) (.rnd x kk) ∧
    ∃ t, exec (.rnd x kk) s = .next t ∧
      (∀ b, (t.reg x).getLsbD b = (s.inp.rnd.getLsbD b && kk.getLsbD b)) ∧
      t.pc = nextOf s ∧ Frame s t (· ∈ [Part.reg x, .pc])

/-! ## Address register, BCD, block transfers (43_index_memory.md) -/

/-- R171 LD I,addr and R173 LD F,Vx. -/
def Obligations.IndexLoads : Prop :=
  ∀ (nnn : Addr12) (x : Reg) (s : State),
    decodesTo (0xA000 + nnn.toNat) (.ldI nnn) ∧ decodesTo (0xF029 + x.val * 0x100) (.ldF x) ∧
    (∃ t, exec (.ldI nnn) s = .next t ∧ t.i.toNat = nnn.toNat ∧ t.pc = nextOf s ∧ Frame s t (· ∈ [Part.i, .pc])) ∧
    (∃ t, exec (.ldF x) s = .next t ∧ t.i.toNat = (s.reg x).toNat * 5 ∧ t.pc = nextOf s ∧
      Frame s t (· ∈ [Part.i, .pc]))

/-- R172 ADD I,Vx, under every setting of ADDI_MASK12 and ADDI_VF. -/
def Obligations.AddToIndex : Prop :=
  ∀ (x : Reg) (s : State), decodesTo (0xF01E + x.val * 0x100) (.addI x) ∧
    ∃ t, exec (.addI x) s = .next t ∧ t.i.toNat = wrapped s.cfg (s.i.toNat + (s.reg x).toNat) ∧
      (s.cfg.addiVf = true → (t.reg 15).toNat = if s.i.toNat + (s.reg x).toNat > 0xFFF then 1 else 0) ∧
      t.pc = nextOf s ∧
      Frame s t (fun p => p ∈ [Part.i, .pc] ∨ (s.cfg.addiVf = true ∧ p = .reg 15))

/-- R174 LD B,Vx: the three digits, or the fault of the lowest failing address. -/
def Obligations.DecimalDigitsAreStored : Prop :=
  ∀ (x : Reg) (s : State), decodesTo (0xF033 + x.val * 0x100) (.ldB x) ∧
    (s.memWf → (∀ k, k < 3 → ¬ storeBad s.cfg (s.i.toNat + k)) → ∃ t, exec (.ldB x) s = .next t ∧
      (t.readByte s.i.toNat).toNat = (s.reg x).toNat / 100 ∧
      (t.readByte (s.i.toNat + 1)).toNat = (s.reg x).toNat / 10 % 10 ∧
      (t.readByte (s.i.toNat + 2)).toNat = (s.reg x).toNat % 10 ∧
      t.pc = nextOf s ∧ Frame s t (fun p => p = .pc ∨ bytesFrom s.i.toNat 3 p)) ∧
    (∀ b, LowestBad (storeBad s.cfg) s.i.toNat 3 b → ∃ t, exec (.ldB x) s = .next t ∧ FaultEntry s (causeOf b) b t)

/-- R175 LD [I],Vx. -/
def Obligations.RegistersAreStored : Prop :=
  ∀ (x : Reg) (s : State), decodesTo (0xF055 + x.val * 0x100) (.storeRegs x) ∧
    (s.memWf → (∀ k, k ≤ x.val → ¬ storeBad s.cfg (s.i.toNat + k)) → ∃ t, exec (.storeRegs x) s = .next t ∧
      (∀ r : Reg, r ≤ x → t.readByte (s.i.toNat + r.val) = s.reg r) ∧
      (s.cfg.ldstAdvanceI = true → t.i.toNat = wrapped s.cfg (s.i.toNat + x.val + 1)) ∧
      t.pc = nextOf s ∧
      Frame s t (fun p => p = .pc ∨ bytesFrom s.i.toNat (x.val + 1) p ∨ (s.cfg.ldstAdvanceI = true ∧ p = .i))) ∧
    (∀ b, LowestBad (storeBad s.cfg) s.i.toNat (x.val + 1) b →
      ∃ t, exec (.storeRegs x) s = .next t ∧ FaultEntry s (causeOf b) b t)

/-- R176 LD Vx,[I]. -/
def Obligations.RegistersAreLoaded : Prop :=
  ∀ (x : Reg) (s : State), decodesTo (0xF065 + x.val * 0x100) (.loadRegs x) ∧
    ((∀ k, k ≤ x.val → ¬ readBad (s.i.toNat + k)) → ∃ t, exec (.loadRegs x) s = .next t ∧
      (∀ r : Reg, r ≤ x → t.reg r = s.readByte (s.i.toNat + r.val)) ∧
      (s.cfg.ldstAdvanceI = true → t.i.toNat = wrapped s.cfg (s.i.toNat + x.val + 1)) ∧
      t.pc = nextOf s ∧
      Frame s t (fun p => p = .pc ∨ (∃ r : Reg, r ≤ x ∧ p = .reg r) ∨ (s.cfg.ldstAdvanceI = true ∧ p = .i))) ∧
    (∀ b, LowestBad readBad s.i.toNat (x.val + 1) b →
      ∃ t, exec (.loadRegs x) s = .next t ∧ FaultEntry s .memRange b t)

/-- "Round-trip: `LD [I],Vx` followed by `LD Vx,[I]` with unchanged memory and I restores identical register values"
(R176): whatever happens to the registers between the two. -/
def Obligations.StoredRegistersLoadBack : Prop :=
  ∀ (x : Reg) (s t u : State), s.memWf → (∀ k, k ≤ x.val → ¬ storeBad s.cfg (s.i.toNat + k)) →
    exec (.storeRegs x) s = .next t → u.i = s.i →
    (∀ k, k ≤ x.val → u.readByte (s.i.toNat + k) = t.readByte (s.i.toNat + k)) →
    ∃ w, exec (.loadRegs x) u = .next w ∧ ∀ r : Reg, r ≤ x → w.reg r = s.reg r

/-- 20_memory.md R65: a store that covers the two bytes where the next instruction is fetched is what that fetch
reads. -/
def Obligations.StoreIsSeenByTheNextFetch : Prop :=
  ∀ (x r : Reg) (s t : State), s.memWf → s.runState = .running →
    exec (.storeRegs x) s = .next t → t.runState = .running →
    r.val + 1 ≤ x.val → t.pc.toNat = s.i.toNat + r.val →
    t.fetch = .ok (BitVec.ofNat 16 ((s.reg r).toNat * 256 + (s.reg (r + 1)).toNat))

/-! ## Display (44_display.md) -/

/-- R191 CLS. That every word 0?E0 is CLS is the spec's decision D17 (log 17); what a `pc` of 10 to 12 bits keeps of
`next` is a choice (D3, log 1). -/
def Obligations.ClearEmptiesTheDisplay : Prop :=
  ∀ (ign : Nibble) (s : State), decodesTo (ign.toNat * 0x100 + 0xE0) (.cls ign) ∧
    ∃ t, exec (.cls ign) s = .next t ∧ (∀ p, cellOf t.fb p = false) ∧ t.dirty = true ∧ t.pc = nextOf s ∧
      Frame s t (fun p => p = .pc ∨ p = .dirty ∨ ∃ q, p = .cell q)

/-- R192 DRW with R193 (1) and (2): the grid is the cell-wise exclusive or of the old grid with the wrapped sprite, and
the flag is 1 exactly when a set cell and the sprite meet. -/
def Obligations.DrawIsExclusiveOrWithCollision : Prop :=
  ∀ (x y : Reg) (n : Nibble) (s : State),
    decodesTo (0xD000 + x.val * 0x100 + y.val * 0x10 + n.toNat) (.drw x y n) ∧
    ((∀ k, k < n.toNat → ¬ readBad (s.i.toNat + k)) → ∃ t, exec (.drw x y n) s = .next t ∧
      (∀ p, spriteCovers s x y n.toNat p → cellOf t.fb p = !cellOf s.fb p) ∧
      ((∃ p, spriteCovers s x y n.toNat p ∧ cellOf s.fb p = true) → t.reg 15 = 1) ∧
      ((∀ p, spriteCovers s x y n.toNat p → cellOf s.fb p = false) → t.reg 15 = 0) ∧
      t.dirty = true ∧ t.pc = nextOf s ∧
      Frame s t (fun p => p ∈ [Part.reg 15, .dirty, .pc] ∨ ∃ q, spriteCovers s x y n.toNat q ∧ p = .cell q)) ∧
    (∀ b, LowestBad readBad s.i.toNat n.toNat b → ∃ t, exec (.drw x y n) s = .next t ∧ FaultEntry s .memRange b t)

/-- R193 (3): the same sprite at the same place again restores the grid. The second flag is 1 exactly when the sprite
covers a cell that was 0 before the first: R192 decides, where R193 says 1 whenever the sprite has a set bit
(log 23). -/
def Obligations.DrawingTwiceRestoresTheDisplay : Prop :=
  ∀ (x y : Reg) (n : Nibble) (s t u : State), (∀ k, k < n.toNat → ¬ readBad (s.i.toNat + k)) →
    exec (.drw x y n) s = .next t →
    u.fb = t.fb → u.i = s.i → (∀ k, k < n.toNat → u.readByte (s.i.toNat + k) = s.readByte (s.i.toNat + k)) →
    u.reg x = s.reg x → u.reg y = s.reg y →
    ∃ w, exec (.drw x y n) u = .next w ∧ w.fb = s.fb ∧
      ((∃ p, spriteCovers s x y n.toNat p ∧ cellOf s.fb p = false) → w.reg 15 = 1) ∧
      ((∀ p, spriteCovers s x y n.toNat p → cellOf s.fb p = true) → w.reg 15 = 0)

/-! ## Keypad and timers (45_timer_input.md) -/

/-- R201 SKP Vx and R202 SKNP Vx: the value is not reduced to 4 bits. -/
def Obligations.KeySkips : Prop :=
  ∀ (x : Reg) (s : State),
    decodesTo (0xE09E + x.val * 0x100) (.skp x) ∧ decodesTo (0xE0A1 + x.val * 0x100) (.sknp x) ∧
    (∃ t, exec (.skp x) s = .next t ∧ (pressed s (s.reg x).toNat → t.pc = skipOf s) ∧
      (¬ pressed s (s.reg x).toNat → t.pc = nextOf s) ∧ Frame s t (· ∈ [Part.pc])) ∧
    (∃ t, exec (.sknp x) s = .next t ∧ (pressed s (s.reg x).toNat → t.pc = nextOf s) ∧
      (¬ pressed s (s.reg x).toNat → t.pc = skipOf s) ∧ Frame s t (· ∈ [Part.pc]))

/-- R203 LD Vx,DT, R204 LD DT,Vx, R205 LD ST,Vx (the execute phase; the tick follows). -/
def Obligations.TimerMoves : Prop :=
  ∀ (x : Reg) (s : State),
    decodesTo (0xF007 + x.val * 0x100) (.ldVxDt x) ∧ decodesTo (0xF015 + x.val * 0x100) (.ldDtVx x) ∧
    decodesTo (0xF018 + x.val * 0x100) (.ldStVx x) ∧
    (∃ t, exec (.ldVxDt x) s = .next t ∧ t.reg x = s.dt ∧ t.pc = nextOf s ∧ Frame s t (· ∈ [Part.reg x, .pc])) ∧
    (∃ t, exec (.ldDtVx x) s = .next t ∧ t.dt = s.reg x ∧ t.pc = nextOf s ∧ Frame s t (· ∈ [Part.dt, .pc])) ∧
    (∃ t, exec (.ldStVx x) s = .next t ∧ t.st = s.reg x ∧ t.pc = nextOf s ∧ Frame s t (· ∈ [Part.st, .pc]))

/-- R206 LD Vx,K: with no key down nothing changes, `pc` included; otherwise a member of the set, the lowest under the
default selection. -/
def Obligations.KeyWait : Prop :=
  ∀ (x : Reg) (s : State), decodesTo (0xF00A + x.val * 0x100) (.ldVxK x) ∧
    ((∀ k, k < 16 → s.keys.getLsbD k = false) → ∃ t, exec (.ldVxK x) s = .next t ∧ Frame s t (fun _ => False)) ∧
    ((∃ k, k < 16 ∧ s.keys.getLsbD k = true) → ∃ t, exec (.ldVxK x) s = .next t ∧
      (t.reg x).toNat < 16 ∧ s.keys.getLsbD (t.reg x).toNat = true ∧
      (s.cfg.keySelect = [] → ∀ k, k < (t.reg x).toNat → s.keys.getLsbD k = false) ∧
      t.pc = nextOf s ∧ Frame s t (· ∈ [Part.reg x, .pc]))

/-! ## UNKNOWN, the cycle and the loop (40_cycle_and_fetch.md) -/

/-- R110 UNKNOWN: the event, and nothing else. -/
def Obligations.UnknownOnlyEmitsItsEvent : Prop :=
  ∀ (w : Word) (s : State), (unknownWord w = true → decode w = .unknown w) ∧
    ∃ t, exec (.unknown w) s = .next t ∧ t.events = s.events ++ [.unknown w s.pc] ∧ t.pc = nextOf s ∧
      Frame s t (· ∈ [Part.events, .pc])

/-- R102, R105: when the two bytes at `pc` decode to a well-formed instruction, the step of a Running machine is the
poll, `exec` of that instruction, and then render and tick unless it faulted; with the host's inputs, or, past the end
of its list, with the free ones, whatever they are (log 7). -/
def Obligations.StepRunsTheDecodedInstruction : Prop :=
  ∀ (s : State) (i : Instr), s.runState = .running → s.pc.toNat ≤ 0xFFE → i.wellFormed = true →
    decodeBytes [s.readByte s.pc.toNat, s.readByte (s.pc.toNat + 1)] = .ok (i, []) →
    (∀ (inp : CycleIn) (rest : List HostMove), s.host = .cycle inp :: rest → inp.quit = false →
      step s = match exec i (polled s inp rest) with
        | .next t => .next t.finish
        | .fault r => .fault r
        | .refused r => .refused r) ∧
    (s.host = [] →
      step s = if (Config.freeInput s.draws).quit then .next { s with draws := s.draws + 1, runState := .halted }
        else match exec i (polled { s with draws := s.draws + 1 } (Config.freeInput s.draws) []) with
          | .next t => .next t.finish
          | .fault r => .fault r
          | .refused r => .refused r)

/-- R107, R108: after an execute phase that did not fault, the display is presented if a repaint is owed, and then the
timers count down if the input `tick` is 1, with `tone_stop` when ST goes from 1 to 0. -/
def Obligations.CycleRendersThenTicks : Prop :=
  ∀ (s t : State) (inp : CycleIn) (rest : List HostMove), s.runState = .running → s.host = .cycle inp :: rest →
    inp.quit = false → (polled s inp rest).execute = .next t → t.runState ≠ .faulted →
    ∃ u, step s = .next u ∧ u.dirty = false ∧
      u.dt.toNat = t.dt.toNat - (if inp.tick then 1 else 0) ∧
      u.st.toNat = t.st.toNat - (if inp.tick then 1 else 0) ∧
      u.events = t.events ++ (if t.dirty then [.present t.fb] else []) ++
        (if inp.tick = true ∧ t.st.toNat = 1 then [.toneStop] else []) ∧
      Frame t u (· ∈ [Part.dirty, .dt, .st, .events])

/-- R103: quit, sampled at the start of the cycle. -/
def Obligations.QuitOnlyHalts : Prop :=
  ∀ (s : State) (inp : CycleIn) (rest : List HostMove), s.runState = .running → s.host = .cycle inp :: rest →
    inp.quit = true →
    ∃ t, step s = .next t ∧ t.runState = .halted ∧ t.host = rest ∧ Frame s t (· ∈ [Part.runState, .host])

/-- R106: the fetch above 0xFFE. -/
def Obligations.FetchAboveMemoryFaults : Prop :=
  ∀ (s : State) (inp : CycleIn) (rest : List HostMove), s.runState = .running → s.host = .cycle inp :: rest →
    inp.quit = false → s.pc.toNat > 0xFFE →
    ∃ t, step s = .next t ∧
      FaultEntry (polled s inp rest) .memRange (if s.pc.toNat > 0xFFF then s.pc.toNat else s.pc.toNat + 1) t

/-- R109, 60_exceptions.md R226: a cycle that ends in Faulted has written the record and changed nothing else but the
poll; `pc` is `this`; render and tick are skipped. -/
def Obligations.FaultingCycleIsPrecise : Prop :=
  ∀ (s t : State) (inp : CycleIn) (rest : List HostMove), s.runState = .running → s.host = .cycle inp :: rest →
    step s = .next t → t.runState = .faulted →
    t.pc = s.pc ∧ t.faultPc = s.pc ∧ t.faultCause ≠ .none ∧ t.keys = inp.keys ∧ t.inp = inp ∧ t.host = rest ∧
      Frame s t (· ∈ [Part.runState, .faultRecord, .keys, .inp, .host])

/-- 60_exceptions.md R242: which handlers can raise which causes. -/
def Obligations.HandlersRaiseOnlyTheirCauses : Prop :=
  ∀ (i : Instr) (s t : State), s.runState = .running → exec i s = .next t → t.runState ≠ .running →
    t.runState = .faulted ∧ mayRaise i t.faultCause

/-- 10_state.md R40: the access matrix. An instruction that does not fault writes only `pc` and the parts of its row; no
instruction halts the machine, loads a program or changes the poll, the configuration or the host's moves. -/
def Obligations.InstructionsWriteOnlyTheirRow : Prop :=
  ∀ (i : Instr) (s t : State), s.runState = .running → exec i s = .next t →
    (t.runState = .running ∧ Frame s t (fun p => p = .pc ∨ mayWrite s i p)) ∨
    (t.runState = .faulted ∧ Frame s t (· ∈ [Part.runState, .faultRecord]))

/-- 10_state.md R22, R43: straight after an instruction that writes VF as a flag, VF is 0 or 1. -/
def Obligations.FlagIsZeroOrOne : Prop :=
  ∀ (i : Instr) (s t : State), s.runState = .running → writesFlag s.cfg i → exec i s = .next t →
    t.runState = .running → (t.reg 15).toNat ≤ 1

/-- 10_state.md R42, R29, R33, R36: what no instruction reads does not matter to what it does. Two states that differ
only in the sound timer, the repaint flag, the run state, the fault record and the model's records end in states that
differ only there. -/
def Obligations.UnreadPartsDoNotMatter : Prop :=
  ∀ (i : Instr) (s s' t : State), s.memWf → s'.memWf → Frame s s' unread → exec i s = .next t →
    ∃ t', exec i s' = .next t' ∧ Frame t t' unread

/-- R100: the transitions of the run state, and no others. -/
def Obligations.RunStateTransitions : Prop :=
  ∀ s t : State, step s = .next t → t.runState ≠ s.runState →
    (t.runState = .idle ∧ s.host.head? = some .reset) ∨
    (s.runState = .idle ∧ t.runState = .running ∧ s.host.head? = some .start) ∨
    (s.runState = .idle ∧ t.runState = .faulted ∧ ∃ rom, s.host.head? = some (.load rom) ∧ 3584 < rom.length) ∨
    (s.runState = .running ∧ t.runState = .halted ∧ ∃ inp, cycleInput s = some inp ∧ inp.quit = true) ∨
    (s.runState = .running ∧ t.runState = .faulted ∧ ∃ inp, cycleInput s = some inp ∧ inp.quit = false)

/-- R100: outside Running no cycle runs, and nothing changes but by reset or, in Idle, by the load port and start. -/
def Obligations.NothingChangesOutsideRunning : Prop :=
  ∀ s : State, s.runState ≠ .running → s.host.head? ≠ some .reset →
    (s.runState = .idle → s.host.head? ≠ some .start ∧ ∀ rom, s.host.head? ≠ some (.load rom)) →
    ∃ t, step s = .next t ∧ t.host = s.host.tail ∧ Frame s t (· ∈ [Part.host])

/-- No state stops the model: every step answers a next state. -/
def Obligations.EveryStepAnswersANextState : Prop := ∀ s : State, ∃ t, step s = .next t

/-- R107: `present` is emitted in exactly the cycles that execute a CLS or a DRW that did not fault. -/
def Obligations.PresentExactlyAfterDrawing : Prop :=
  ∀ (s t : State) (inp : CycleIn) (rest : List HostMove), s.runState = .running → s.host = .cycle inp :: rest →
    inp.quit = false → s.pc.toNat ≤ 0xFFE → s.dirty = false → step s = .next t →
    ((∃ g, Event.present g ∈ t.events.drop s.events.length) ↔
      t.runState = .running ∧
        ((∃ ign, decode (wordAtPc s) = .cls ign) ∨ ∃ x y n, decode (wordAtPc s) = .drw x y n))

/-- 60_exceptions.md R236: the rising edge of `tone` can only be caused by LD ST,Vx with a value other than 0. -/
def Obligations.ToneRisesOnlyByLoadingSt : Prop :=
  ∀ s t : State, step s = .next t → s.tone = false → t.tone = true →
    s.runState = .running ∧ ∃ x : Reg, decode (wordAtPc s) = .ldStVx x ∧ s.reg x ≠ 0

/-- 70_reset_and_hazards.md R269: a timer value written in a cycle with a tick is already one less when the next
instruction runs, and writing 1 to ST in such a cycle ends in 0 with `tone_stop` (45_timer_input.md R204, R205). -/
def Obligations.TimerWrittenInATickedCycle : Prop :=
  ∀ (s : State) (inp : CycleIn) (rest : List HostMove) (x : Reg), s.runState = .running → s.dirty = false →
    s.host = .cycle inp :: rest → inp.quit = false → inp.tick = true → s.pc.toNat ≤ 0xFFE →
    (decode (wordAtPc s) = .ldDtVx x → ∃ t, step s = .next t ∧ t.dt.toNat = (s.reg x).toNat - 1) ∧
    (decode (wordAtPc s) = .ldStVx x → ∃ t, step s = .next t ∧ t.st.toNat = (s.reg x).toNat - 1 ∧
      t.events = s.events ++ (if s.reg x = 1 then [.toneStop] else []))

/-! ## Reset, load, start (70_reset_and_hazards.md) -/

/-- R260: reset by the host, from any state. -/
def Obligations.HostResetGivesResetValues : Prop :=
  ∀ (s : State) (rest : List HostMove), s.host = .reset :: rest →
    ∃ t, step s = .next t ∧ ResetValues t ∧ t.host = rest ∧ t.cfg = s.cfg

/-- R264: a ROM that fits is loaded verbatim from 0x200, in Idle only. -/
def Obligations.LoadPortWritesTheRom : Prop :=
  ∀ (s : State) (rom : List Byte) (rest : List HostMove), s.host = .load rom :: rest → s.memWf →
    rom.length ≤ 3584 → s.runState = .idle →
    ∃ t, step s = .next t ∧ (∀ (k : Nat) (h : k < rom.length), t.readByte (0x200 + k) = rom[k]) ∧ t.host = rest ∧
      Frame s t (fun p => p = .host ∨ bytesFrom 0x200 rom.length p)

/-- R264: a ROM of more than 3584 bytes faults at the first byte that does not fit; the bytes already written stay. -/
def Obligations.LoadPortFaultsOnALongRom : Prop :=
  ∀ (s : State) (rom : List Byte) (rest : List HostMove), s.host = .load rom :: rest → s.memWf →
    3584 < rom.length → s.runState = .idle →
    ∃ t, step s = .next t ∧ t.runState = .faulted ∧ t.faultCause = .memRange ∧ t.faultAddr = 0x1000 ∧
      t.faultPc = 0x200 ∧
      (∀ (k : Nat) (_ : k < 3584) (h : k < rom.length), t.readByte (0x200 + k) = rom[k]) ∧ t.host = rest ∧
      Frame s t (fun p => p ∈ [Part.host, .runState, .faultRecord] ∨ bytesFrom 0x200 3584 p)

/-- R264, R265: start in Idle makes the machine Running; while Running the load port and start do nothing. -/
def Obligations.StartRunsOnlyFromIdle : Prop :=
  ∀ (s : State) (rest : List HostMove),
    (s.host = .start :: rest → s.runState = .idle →
      ∃ t, step s = .next t ∧ t.runState = .running ∧ t.host = rest ∧ Frame s t (· ∈ [Part.runState, .host])) ∧
    (s.host = .start :: rest ∨ (∃ rom, s.host = .load rom :: rest) → s.runState = .running →
      ∃ t, step s = .next t ∧ t.host = rest ∧ Frame s t (· ∈ [Part.host]))

/-- R267: the launch state, two host moves after reset. -/
def Obligations.LaunchState : Prop :=
  ∀ (rom : List Byte) (rest : List HostMove), rom.length ≤ 3584 →
    ∃ t, Host.Core.run core 2 (bootWith rom rest) = .next t ∧ t.runState = .running ∧ t.host = rest ∧
      (∀ a, t.readByte a = if h : 0x200 ≤ a ∧ a - 0x200 < rom.length then rom[a - 0x200] else
        if h' : a < 80 then t.cfg.font[a] else 0) ∧
      Frame State.reset t (fun p => p ∈ [Part.runState, .host] ∨ bytesFrom 0x200 rom.length p)

/-! ## Invariants -/

/-- 10_state.md R43, R24, R33, R36: every step keeps the invariant: canonical memory, no repaint owed, the widths of
`I`, of `pc` and of a stack entry, the reserved region, and the fault record. -/
def Obligations.StepKeepsTheInvariant : Prop := ∀ s t : State, Inv s → step s = .next t → Inv t

/-- 10_state.md R25, 93_implementation_defined.md U18 (decision D3, log 1): a `pc` of 13 bits or more never wraps, and two
machines that differ only in a width of 13 bits or more make the same steps. -/
def Obligations.WideCountersAreAlike : Prop :=
  (∀ s : State, 13 ≤ s.cfg.pcWidth.val → s.pc.toNat ≤ 0xFFE →
    (nextOf s).toNat = s.pc.toNat + 2 ∧ (skipOf s).toNat = s.pc.toNat + 4 ∧
    ∀ (nnn : Addr12) (b : Byte), pcKeeps s.cfg (nnn.toNat + b.toNat) = nnn.toNat + b.toNat) ∧
  ∀ (s t : State) (w : PcWidth), 13 ≤ s.cfg.pcWidth.val → 13 ≤ w.val → step s = .next t →
    step (withPcWidth s w) = .next (withPcWidth t w)

/-- Two memories in canonical form that read alike are the same list (log 13). -/
def Obligations.CanonicalMemoriesThatReadAlikeAreEqual : Prop :=
  ∀ (d : Nat → Byte) (m m' : List Host.Cell), Memory.wf d m = true → Memory.wf d m' = true →
    (∀ a, Memory.get d m a = Memory.get d m' a) → m = m'

/-! ## The delay timer and the poll, over a whole cycle -/

/-- 10_state.md R28: LD DT,Vx writes `DT`, LD Vx,DT reads it, the tick of a cycle takes it down by one but not below 0, and
nothing else in a cycle moves it. -/
def Obligations.DelayTimerCountsDownToZero : Prop :=
  (∀ (x : Reg) (s : State), ∃ t, exec (.ldVxDt x) s = .next t ∧ t.reg x = s.dt) ∧
  ∀ (s t : State) (inp : CycleIn) (w : Word), s.fetch = .ok w → inp.quit = false → s.cycle inp = .next t →
    t.runState ≠ .faulted →
    (∀ x, decode w = .ldDtVx x → t.dt.toNat = (s.reg x).toNat - if inp.tick then 1 else 0) ∧
    ((∀ x, decode w ≠ .ldDtVx x) → t.dt.toNat = s.dt.toNat - if inp.tick then 1 else 0)

/-- 40_cycle_and_fetch.md R104: the poll replaces all 16 bits of `K` with `in.keys`, whatever was held before, and touches
nothing else; the instruction of the same cycle runs on the new set, and the cycle leaves it (for one that ends in
Faulted, `FaultingCycleIsPrecise` says so). -/
def Obligations.PollReplacesTheKeySet : Prop :=
  ∀ (s : State) (inp : CycleIn), (s.poll inp).keys = inp.keys ∧ Frame s (s.poll inp) (· ∈ [Part.keys, .inp]) ∧
    (inp.quit = false → ∀ w, s.fetch = .ok w →
      ∃ u, exec (decode w) (s.poll inp) = .next u ∧ s.cycle inp = .next u.finish ∧
        (u.runState ≠ .faulted → u.finish.keys = inp.keys))
end

