-- ==== Sys2Proof/Laws/Memory.lean ====
section
/-! SUPPORT. The laws of memory as data: read after write, the other addresses, and the canonical form that every
operation keeps. -/

namespace Sys2Proof.Machine

variable {d : Nat → Byte}

@[simp] theorem Memory.get_put_same (m : List Host.Cell) (a : Nat) (b : Byte) (h : Memory.get d m a = d a) :
    Memory.get d (Memory.put d a b m) a = b := by
  unfold Memory.put
  split
  · rw [h]; exact (‹b = d a›).symm
  · simp [Memory.get]

theorem Memory.get_put_other (m : List Host.Cell) {a c : Nat} (b : Byte) (h : c ≠ a) :
    Memory.get d (Memory.put d a b m) c = Memory.get d m c := by
  unfold Memory.put
  split
  · rfl
  · simp [Memory.get, h]

/-- Below every listed address memory reads as unlisted. -/
theorem Memory.get_of_lt {low : Nat} {m : List Host.Cell} (h : Memory.wfFrom d low m = true) {a : Nat} (ha : a < low) :
    Memory.get d m a = d a := by
  induction m generalizing low with
  | nil => rfl
  | cons p m ih =>
    simp only [Memory.wfFrom, Bool.and_eq_true, decide_eq_true_eq] at h
    have hk : a ≠ p.1 := by omega
    simp only [Memory.get, hk, if_false]
    exact ih h.2 (by omega)

theorem Memory.wfFrom_mono {low low' : Nat} {m : List Host.Cell} (h : Memory.wfFrom d low m = true) (hl : low' ≤ low) :
    Memory.wfFrom d low' m = true := by
  cases m with
  | nil => rfl
  | cons p m =>
    simp only [Memory.wfFrom, Bool.and_eq_true, decide_eq_true_eq] at h ⊢
    exact ⟨⟨⟨by omega, h.1.1.2⟩, h.1.2⟩, h.2⟩

theorem Memory.wfFrom_put {low a : Nat} {m : List Host.Cell} (b : Byte) (h : Memory.wfFrom d (a + 1) m = true)
    (hl : low ≤ a) (ha : a ≤ memTop) : Memory.wfFrom d low (Memory.put d a b m) = true := by
  unfold Memory.put
  split
  · exact Memory.wfFrom_mono h (by omega)
  · simp only [Memory.wfFrom, Bool.and_eq_true, decide_eq_true_eq, bne_iff_ne]
    exact ⟨⟨⟨hl, ha⟩, ‹_›⟩, h⟩

theorem Memory.wfFrom_set {low a : Nat} {m : List Host.Cell} (b : Byte) (h : Memory.wfFrom d low m = true)
    (hl : low ≤ a) (ha : a ≤ memTop) : Memory.wfFrom d low (Memory.set d m a b) = true := by
  induction m generalizing low with
  | nil => exact Memory.wfFrom_put b rfl hl ha
  | cons p m ih =>
    have hp := h
    simp only [Memory.wfFrom, Bool.and_eq_true, decide_eq_true_eq] at h
    simp only [Memory.set]
    split
    · refine Memory.wfFrom_put b ?_ hl ha
      simp only [Memory.wfFrom, Bool.and_eq_true, decide_eq_true_eq]
      exact ⟨⟨⟨by omega, h.1.1.2⟩, h.1.2⟩, h.2⟩
    · split
      · exact Memory.wfFrom_put b (by subst a; exact h.2) hl ha
      · simp only [Memory.wfFrom, Bool.and_eq_true, decide_eq_true_eq]
        exact ⟨⟨⟨h.1.1.1, h.1.1.2⟩, h.1.2⟩, ih h.2 (by omega)⟩

/-- Writing a byte of memory keeps the canonical form. -/
theorem Memory.wf_set {a : Nat} {m : List Host.Cell} (b : Byte) (h : Memory.wf d m = true) (ha : a ≤ memTop) :
    Memory.wf d (Memory.set d m a b) = true :=
  Memory.wfFrom_set b h (Nat.zero_le a) ha

theorem Memory.get_set_other (m : List Host.Cell) {a c : Nat} (b : Byte) (h : c ≠ a) :
    Memory.get d (Memory.set d m a b) c = Memory.get d m c := by
  induction m with
  | nil => exact Memory.get_put_other [] b h
  | cons p m ih =>
    simp only [Memory.set]
    split
    · exact Memory.get_put_other _ b h
    · split
      · rw [Memory.get_put_other _ b h]
        simp [Memory.get, show c ≠ p.1 by omega]
      · simp only [Memory.get, ih]

theorem Memory.get_set_same_from {low : Nat} {m : List Host.Cell} (h : Memory.wfFrom d low m = true) (a : Nat)
    (b : Byte) : Memory.get d (Memory.set d m a b) a = b := by
  induction m generalizing low with
  | nil => exact Memory.get_put_same [] a b rfl
  | cons p m ih =>
    have hp := h
    simp only [Memory.wfFrom, Bool.and_eq_true, decide_eq_true_eq] at h
    simp only [Memory.set]
    split
    · refine Memory.get_put_same _ a b ?_
      have : Memory.wfFrom d p.1 (p :: m) = true := by
        simp only [Memory.wfFrom, Bool.and_eq_true, decide_eq_true_eq]
        exact ⟨⟨⟨le_refl _, h.1.1.2⟩, h.1.2⟩, h.2⟩
      exact Memory.get_of_lt this (by omega)
    · split
      · exact Memory.get_put_same _ a b (Memory.get_of_lt h.2 (by omega))
      · simp only [Memory.get, ‹¬a = p.1›, if_false]
        exact ih h.2

/-- A read after a write to the same address gives the byte written. -/
theorem Memory.get_set_same {m : List Host.Cell} (h : Memory.wf d m = true) (a : Nat) (b : Byte) :
    Memory.get d (Memory.set d m a b) a = b :=
  Memory.get_set_same_from h a b

end Sys2Proof.Machine
end

