-- ==== Sys2Proof/Laws/State.lean ====
section
/-! SUPPORT. What each named update of the state leaves in each field: one lemma per field per update, so that no proof
unfolds a record update. -/

namespace Sys2Proof.Machine

variable (s : State)

/-! ### `State.setReg` -/

@[simp] theorem State.setReg_v (x : Reg) (b : Byte) : (s.setReg x b).v = s.v.set x b := rfl
@[simp] theorem State.setReg_pc (x : Reg) (b : Byte) : (s.setReg x b).pc = s.pc := rfl
@[simp] theorem State.setReg_i (x : Reg) (b : Byte) : (s.setReg x b).i = s.i := rfl
@[simp] theorem State.setReg_stack (x : Reg) (b : Byte) : (s.setReg x b).stack = s.stack := rfl
@[simp] theorem State.setReg_sp (x : Reg) (b : Byte) : (s.setReg x b).sp = s.sp := rfl
@[simp] theorem State.setReg_dt (x : Reg) (b : Byte) : (s.setReg x b).dt = s.dt := rfl
@[simp] theorem State.setReg_st (x : Reg) (b : Byte) : (s.setReg x b).st = s.st := rfl
@[simp] theorem State.setReg_mem (x : Reg) (b : Byte) : (s.setReg x b).mem = s.mem := rfl
@[simp] theorem State.setReg_fb (x : Reg) (b : Byte) : (s.setReg x b).fb = s.fb := rfl
@[simp] theorem State.setReg_dirty (x : Reg) (b : Byte) : (s.setReg x b).dirty = s.dirty := rfl
@[simp] theorem State.setReg_keys (x : Reg) (b : Byte) : (s.setReg x b).keys = s.keys := rfl
@[simp] theorem State.setReg_runState (x : Reg) (b : Byte) : (s.setReg x b).runState = s.runState := rfl
@[simp] theorem State.setReg_faultCause (x : Reg) (b : Byte) : (s.setReg x b).faultCause = s.faultCause := rfl
@[simp] theorem State.setReg_faultAddr (x : Reg) (b : Byte) : (s.setReg x b).faultAddr = s.faultAddr := rfl
@[simp] theorem State.setReg_faultPc (x : Reg) (b : Byte) : (s.setReg x b).faultPc = s.faultPc := rfl
@[simp] theorem State.setReg_cfg (x : Reg) (b : Byte) : (s.setReg x b).cfg = s.cfg := rfl
@[simp] theorem State.setReg_inp (x : Reg) (b : Byte) : (s.setReg x b).inp = s.inp := rfl
@[simp] theorem State.setReg_host (x : Reg) (b : Byte) : (s.setReg x b).host = s.host := rfl
@[simp] theorem State.setReg_draws (x : Reg) (b : Byte) : (s.setReg x b).draws = s.draws := rfl
@[simp] theorem State.setReg_events (x : Reg) (b : Byte) : (s.setReg x b).events = s.events := rfl

/-! ### `State.setPc` -/

@[simp] theorem State.setPc_v (v : Nat) : (s.setPc v).v = s.v := rfl
@[simp] theorem State.setPc_pc (v : Nat) : (s.setPc v).pc = keepPc s.cfg v := rfl
@[simp] theorem State.setPc_i (v : Nat) : (s.setPc v).i = s.i := rfl
@[simp] theorem State.setPc_stack (v : Nat) : (s.setPc v).stack = s.stack := rfl
@[simp] theorem State.setPc_sp (v : Nat) : (s.setPc v).sp = s.sp := rfl
@[simp] theorem State.setPc_dt (v : Nat) : (s.setPc v).dt = s.dt := rfl
@[simp] theorem State.setPc_st (v : Nat) : (s.setPc v).st = s.st := rfl
@[simp] theorem State.setPc_mem (v : Nat) : (s.setPc v).mem = s.mem := rfl
@[simp] theorem State.setPc_fb (v : Nat) : (s.setPc v).fb = s.fb := rfl
@[simp] theorem State.setPc_dirty (v : Nat) : (s.setPc v).dirty = s.dirty := rfl
@[simp] theorem State.setPc_keys (v : Nat) : (s.setPc v).keys = s.keys := rfl
@[simp] theorem State.setPc_runState (v : Nat) : (s.setPc v).runState = s.runState := rfl
@[simp] theorem State.setPc_faultCause (v : Nat) : (s.setPc v).faultCause = s.faultCause := rfl
@[simp] theorem State.setPc_faultAddr (v : Nat) : (s.setPc v).faultAddr = s.faultAddr := rfl
@[simp] theorem State.setPc_faultPc (v : Nat) : (s.setPc v).faultPc = s.faultPc := rfl
@[simp] theorem State.setPc_cfg (v : Nat) : (s.setPc v).cfg = s.cfg := rfl
@[simp] theorem State.setPc_inp (v : Nat) : (s.setPc v).inp = s.inp := rfl
@[simp] theorem State.setPc_host (v : Nat) : (s.setPc v).host = s.host := rfl
@[simp] theorem State.setPc_draws (v : Nat) : (s.setPc v).draws = s.draws := rfl
@[simp] theorem State.setPc_events (v : Nat) : (s.setPc v).events = s.events := rfl

/-! ### `State.advance` -/

@[simp] theorem State.advance_v : s.advance.v = s.v := rfl
@[simp] theorem State.advance_pc : s.advance.pc = s.nextPc := rfl
@[simp] theorem State.advance_i : s.advance.i = s.i := rfl
@[simp] theorem State.advance_stack : s.advance.stack = s.stack := rfl
@[simp] theorem State.advance_sp : s.advance.sp = s.sp := rfl
@[simp] theorem State.advance_dt : s.advance.dt = s.dt := rfl
@[simp] theorem State.advance_st : s.advance.st = s.st := rfl
@[simp] theorem State.advance_mem : s.advance.mem = s.mem := rfl
@[simp] theorem State.advance_fb : s.advance.fb = s.fb := rfl
@[simp] theorem State.advance_dirty : s.advance.dirty = s.dirty := rfl
@[simp] theorem State.advance_keys : s.advance.keys = s.keys := rfl
@[simp] theorem State.advance_runState : s.advance.runState = s.runState := rfl
@[simp] theorem State.advance_faultCause : s.advance.faultCause = s.faultCause := rfl
@[simp] theorem State.advance_faultAddr : s.advance.faultAddr = s.faultAddr := rfl
@[simp] theorem State.advance_faultPc : s.advance.faultPc = s.faultPc := rfl
@[simp] theorem State.advance_cfg : s.advance.cfg = s.cfg := rfl
@[simp] theorem State.advance_inp : s.advance.inp = s.inp := rfl
@[simp] theorem State.advance_host : s.advance.host = s.host := rfl
@[simp] theorem State.advance_draws : s.advance.draws = s.draws := rfl
@[simp] theorem State.advance_events : s.advance.events = s.events := rfl

/-! ### `State.skipIf` -/

@[simp] theorem State.skipIf_v (taken : Bool) : (s.skipIf taken).v = s.v := by cases taken <;> rfl
@[simp] theorem State.skipIf_pc (taken : Bool) : (s.skipIf taken).pc = if taken then keepPc s.cfg (s.pc.toNat + 4) else s.nextPc := by cases taken <;> rfl
@[simp] theorem State.skipIf_i (taken : Bool) : (s.skipIf taken).i = s.i := by cases taken <;> rfl
@[simp] theorem State.skipIf_stack (taken : Bool) : (s.skipIf taken).stack = s.stack := by cases taken <;> rfl
@[simp] theorem State.skipIf_sp (taken : Bool) : (s.skipIf taken).sp = s.sp := by cases taken <;> rfl
@[simp] theorem State.skipIf_dt (taken : Bool) : (s.skipIf taken).dt = s.dt := by cases taken <;> rfl
@[simp] theorem State.skipIf_st (taken : Bool) : (s.skipIf taken).st = s.st := by cases taken <;> rfl
@[simp] theorem State.skipIf_mem (taken : Bool) : (s.skipIf taken).mem = s.mem := by cases taken <;> rfl
@[simp] theorem State.skipIf_fb (taken : Bool) : (s.skipIf taken).fb = s.fb := by cases taken <;> rfl
@[simp] theorem State.skipIf_dirty (taken : Bool) : (s.skipIf taken).dirty = s.dirty := by cases taken <;> rfl
@[simp] theorem State.skipIf_keys (taken : Bool) : (s.skipIf taken).keys = s.keys := by cases taken <;> rfl
@[simp] theorem State.skipIf_runState (taken : Bool) : (s.skipIf taken).runState = s.runState := by cases taken <;> rfl
@[simp] theorem State.skipIf_faultCause (taken : Bool) : (s.skipIf taken).faultCause = s.faultCause := by cases taken <;> rfl
@[simp] theorem State.skipIf_faultAddr (taken : Bool) : (s.skipIf taken).faultAddr = s.faultAddr := by cases taken <;> rfl
@[simp] theorem State.skipIf_faultPc (taken : Bool) : (s.skipIf taken).faultPc = s.faultPc := by cases taken <;> rfl
@[simp] theorem State.skipIf_cfg (taken : Bool) : (s.skipIf taken).cfg = s.cfg := by cases taken <;> rfl
@[simp] theorem State.skipIf_inp (taken : Bool) : (s.skipIf taken).inp = s.inp := by cases taken <;> rfl
@[simp] theorem State.skipIf_host (taken : Bool) : (s.skipIf taken).host = s.host := by cases taken <;> rfl
@[simp] theorem State.skipIf_draws (taken : Bool) : (s.skipIf taken).draws = s.draws := by cases taken <;> rfl
@[simp] theorem State.skipIf_events (taken : Bool) : (s.skipIf taken).events = s.events := by cases taken <;> rfl

/-! ### `State.setI` -/

@[simp] theorem State.setI_v (a : Word) : (s.setI a).v = s.v := rfl
@[simp] theorem State.setI_pc (a : Word) : (s.setI a).pc = s.pc := rfl
@[simp] theorem State.setI_i (a : Word) : (s.setI a).i = a := rfl
@[simp] theorem State.setI_stack (a : Word) : (s.setI a).stack = s.stack := rfl
@[simp] theorem State.setI_sp (a : Word) : (s.setI a).sp = s.sp := rfl
@[simp] theorem State.setI_dt (a : Word) : (s.setI a).dt = s.dt := rfl
@[simp] theorem State.setI_st (a : Word) : (s.setI a).st = s.st := rfl
@[simp] theorem State.setI_mem (a : Word) : (s.setI a).mem = s.mem := rfl
@[simp] theorem State.setI_fb (a : Word) : (s.setI a).fb = s.fb := rfl
@[simp] theorem State.setI_dirty (a : Word) : (s.setI a).dirty = s.dirty := rfl
@[simp] theorem State.setI_keys (a : Word) : (s.setI a).keys = s.keys := rfl
@[simp] theorem State.setI_runState (a : Word) : (s.setI a).runState = s.runState := rfl
@[simp] theorem State.setI_faultCause (a : Word) : (s.setI a).faultCause = s.faultCause := rfl
@[simp] theorem State.setI_faultAddr (a : Word) : (s.setI a).faultAddr = s.faultAddr := rfl
@[simp] theorem State.setI_faultPc (a : Word) : (s.setI a).faultPc = s.faultPc := rfl
@[simp] theorem State.setI_cfg (a : Word) : (s.setI a).cfg = s.cfg := rfl
@[simp] theorem State.setI_inp (a : Word) : (s.setI a).inp = s.inp := rfl
@[simp] theorem State.setI_host (a : Word) : (s.setI a).host = s.host := rfl
@[simp] theorem State.setI_draws (a : Word) : (s.setI a).draws = s.draws := rfl
@[simp] theorem State.setI_events (a : Word) : (s.setI a).events = s.events := rfl

/-! ### `State.setDt` -/

@[simp] theorem State.setDt_v (b : Byte) : (s.setDt b).v = s.v := rfl
@[simp] theorem State.setDt_pc (b : Byte) : (s.setDt b).pc = s.pc := rfl
@[simp] theorem State.setDt_i (b : Byte) : (s.setDt b).i = s.i := rfl
@[simp] theorem State.setDt_stack (b : Byte) : (s.setDt b).stack = s.stack := rfl
@[simp] theorem State.setDt_sp (b : Byte) : (s.setDt b).sp = s.sp := rfl
@[simp] theorem State.setDt_dt (b : Byte) : (s.setDt b).dt = b := rfl
@[simp] theorem State.setDt_st (b : Byte) : (s.setDt b).st = s.st := rfl
@[simp] theorem State.setDt_mem (b : Byte) : (s.setDt b).mem = s.mem := rfl
@[simp] theorem State.setDt_fb (b : Byte) : (s.setDt b).fb = s.fb := rfl
@[simp] theorem State.setDt_dirty (b : Byte) : (s.setDt b).dirty = s.dirty := rfl
@[simp] theorem State.setDt_keys (b : Byte) : (s.setDt b).keys = s.keys := rfl
@[simp] theorem State.setDt_runState (b : Byte) : (s.setDt b).runState = s.runState := rfl
@[simp] theorem State.setDt_faultCause (b : Byte) : (s.setDt b).faultCause = s.faultCause := rfl
@[simp] theorem State.setDt_faultAddr (b : Byte) : (s.setDt b).faultAddr = s.faultAddr := rfl
@[simp] theorem State.setDt_faultPc (b : Byte) : (s.setDt b).faultPc = s.faultPc := rfl
@[simp] theorem State.setDt_cfg (b : Byte) : (s.setDt b).cfg = s.cfg := rfl
@[simp] theorem State.setDt_inp (b : Byte) : (s.setDt b).inp = s.inp := rfl
@[simp] theorem State.setDt_host (b : Byte) : (s.setDt b).host = s.host := rfl
@[simp] theorem State.setDt_draws (b : Byte) : (s.setDt b).draws = s.draws := rfl
@[simp] theorem State.setDt_events (b : Byte) : (s.setDt b).events = s.events := rfl

/-! ### `State.setSt` -/

@[simp] theorem State.setSt_v (b : Byte) : (s.setSt b).v = s.v := rfl
@[simp] theorem State.setSt_pc (b : Byte) : (s.setSt b).pc = s.pc := rfl
@[simp] theorem State.setSt_i (b : Byte) : (s.setSt b).i = s.i := rfl
@[simp] theorem State.setSt_stack (b : Byte) : (s.setSt b).stack = s.stack := rfl
@[simp] theorem State.setSt_sp (b : Byte) : (s.setSt b).sp = s.sp := rfl
@[simp] theorem State.setSt_dt (b : Byte) : (s.setSt b).dt = s.dt := rfl
@[simp] theorem State.setSt_st (b : Byte) : (s.setSt b).st = b := rfl
@[simp] theorem State.setSt_mem (b : Byte) : (s.setSt b).mem = s.mem := rfl
@[simp] theorem State.setSt_fb (b : Byte) : (s.setSt b).fb = s.fb := rfl
@[simp] theorem State.setSt_dirty (b : Byte) : (s.setSt b).dirty = s.dirty := rfl
@[simp] theorem State.setSt_keys (b : Byte) : (s.setSt b).keys = s.keys := rfl
@[simp] theorem State.setSt_runState (b : Byte) : (s.setSt b).runState = s.runState := rfl
@[simp] theorem State.setSt_faultCause (b : Byte) : (s.setSt b).faultCause = s.faultCause := rfl
@[simp] theorem State.setSt_faultAddr (b : Byte) : (s.setSt b).faultAddr = s.faultAddr := rfl
@[simp] theorem State.setSt_faultPc (b : Byte) : (s.setSt b).faultPc = s.faultPc := rfl
@[simp] theorem State.setSt_cfg (b : Byte) : (s.setSt b).cfg = s.cfg := rfl
@[simp] theorem State.setSt_inp (b : Byte) : (s.setSt b).inp = s.inp := rfl
@[simp] theorem State.setSt_host (b : Byte) : (s.setSt b).host = s.host := rfl
@[simp] theorem State.setSt_draws (b : Byte) : (s.setSt b).draws = s.draws := rfl
@[simp] theorem State.setSt_events (b : Byte) : (s.setSt b).events = s.events := rfl

/-! ### `State.setFlag` -/

@[simp] theorem State.setFlag_v (f : Bool) : (s.setFlag f).v = s.v.set Reg.flag (flagByte f) := rfl
@[simp] theorem State.setFlag_pc (f : Bool) : (s.setFlag f).pc = s.pc := rfl
@[simp] theorem State.setFlag_i (f : Bool) : (s.setFlag f).i = s.i := rfl
@[simp] theorem State.setFlag_stack (f : Bool) : (s.setFlag f).stack = s.stack := rfl
@[simp] theorem State.setFlag_sp (f : Bool) : (s.setFlag f).sp = s.sp := rfl
@[simp] theorem State.setFlag_dt (f : Bool) : (s.setFlag f).dt = s.dt := rfl
@[simp] theorem State.setFlag_st (f : Bool) : (s.setFlag f).st = s.st := rfl
@[simp] theorem State.setFlag_mem (f : Bool) : (s.setFlag f).mem = s.mem := rfl
@[simp] theorem State.setFlag_fb (f : Bool) : (s.setFlag f).fb = s.fb := rfl
@[simp] theorem State.setFlag_dirty (f : Bool) : (s.setFlag f).dirty = s.dirty := rfl
@[simp] theorem State.setFlag_keys (f : Bool) : (s.setFlag f).keys = s.keys := rfl
@[simp] theorem State.setFlag_runState (f : Bool) : (s.setFlag f).runState = s.runState := rfl
@[simp] theorem State.setFlag_faultCause (f : Bool) : (s.setFlag f).faultCause = s.faultCause := rfl
@[simp] theorem State.setFlag_faultAddr (f : Bool) : (s.setFlag f).faultAddr = s.faultAddr := rfl
@[simp] theorem State.setFlag_faultPc (f : Bool) : (s.setFlag f).faultPc = s.faultPc := rfl
@[simp] theorem State.setFlag_cfg (f : Bool) : (s.setFlag f).cfg = s.cfg := rfl
@[simp] theorem State.setFlag_inp (f : Bool) : (s.setFlag f).inp = s.inp := rfl
@[simp] theorem State.setFlag_host (f : Bool) : (s.setFlag f).host = s.host := rfl
@[simp] theorem State.setFlag_draws (f : Bool) : (s.setFlag f).draws = s.draws := rfl
@[simp] theorem State.setFlag_events (f : Bool) : (s.setFlag f).events = s.events := rfl

/-! ### `State.writeResultAndFlag` -/

@[simp] theorem State.writeResultAndFlag_pc (x : Reg) (r : Byte) (f : Bool) : (s.writeResultAndFlag x r f).pc = s.pc := by unfold State.writeResultAndFlag; split <;> [split <;> rfl; rfl]
@[simp] theorem State.writeResultAndFlag_i (x : Reg) (r : Byte) (f : Bool) : (s.writeResultAndFlag x r f).i = s.i := by unfold State.writeResultAndFlag; split <;> [split <;> rfl; rfl]
@[simp] theorem State.writeResultAndFlag_stack (x : Reg) (r : Byte) (f : Bool) : (s.writeResultAndFlag x r f).stack = s.stack := by unfold State.writeResultAndFlag; split <;> [split <;> rfl; rfl]
@[simp] theorem State.writeResultAndFlag_sp (x : Reg) (r : Byte) (f : Bool) : (s.writeResultAndFlag x r f).sp = s.sp := by unfold State.writeResultAndFlag; split <;> [split <;> rfl; rfl]
@[simp] theorem State.writeResultAndFlag_dt (x : Reg) (r : Byte) (f : Bool) : (s.writeResultAndFlag x r f).dt = s.dt := by unfold State.writeResultAndFlag; split <;> [split <;> rfl; rfl]
@[simp] theorem State.writeResultAndFlag_st (x : Reg) (r : Byte) (f : Bool) : (s.writeResultAndFlag x r f).st = s.st := by unfold State.writeResultAndFlag; split <;> [split <;> rfl; rfl]
@[simp] theorem State.writeResultAndFlag_mem (x : Reg) (r : Byte) (f : Bool) : (s.writeResultAndFlag x r f).mem = s.mem := by unfold State.writeResultAndFlag; split <;> [split <;> rfl; rfl]
@[simp] theorem State.writeResultAndFlag_fb (x : Reg) (r : Byte) (f : Bool) : (s.writeResultAndFlag x r f).fb = s.fb := by unfold State.writeResultAndFlag; split <;> [split <;> rfl; rfl]
@[simp] theorem State.writeResultAndFlag_dirty (x : Reg) (r : Byte) (f : Bool) : (s.writeResultAndFlag x r f).dirty = s.dirty := by unfold State.writeResultAndFlag; split <;> [split <;> rfl; rfl]
@[simp] theorem State.writeResultAndFlag_keys (x : Reg) (r : Byte) (f : Bool) : (s.writeResultAndFlag x r f).keys = s.keys := by unfold State.writeResultAndFlag; split <;> [split <;> rfl; rfl]
@[simp] theorem State.writeResultAndFlag_runState (x : Reg) (r : Byte) (f : Bool) : (s.writeResultAndFlag x r f).runState = s.runState := by unfold State.writeResultAndFlag; split <;> [split <;> rfl; rfl]
@[simp] theorem State.writeResultAndFlag_faultCause (x : Reg) (r : Byte) (f : Bool) : (s.writeResultAndFlag x r f).faultCause = s.faultCause := by unfold State.writeResultAndFlag; split <;> [split <;> rfl; rfl]
@[simp] theorem State.writeResultAndFlag_faultAddr (x : Reg) (r : Byte) (f : Bool) : (s.writeResultAndFlag x r f).faultAddr = s.faultAddr := by unfold State.writeResultAndFlag; split <;> [split <;> rfl; rfl]
@[simp] theorem State.writeResultAndFlag_faultPc (x : Reg) (r : Byte) (f : Bool) : (s.writeResultAndFlag x r f).faultPc = s.faultPc := by unfold State.writeResultAndFlag; split <;> [split <;> rfl; rfl]
@[simp] theorem State.writeResultAndFlag_cfg (x : Reg) (r : Byte) (f : Bool) : (s.writeResultAndFlag x r f).cfg = s.cfg := by unfold State.writeResultAndFlag; split <;> [split <;> rfl; rfl]
@[simp] theorem State.writeResultAndFlag_inp (x : Reg) (r : Byte) (f : Bool) : (s.writeResultAndFlag x r f).inp = s.inp := by unfold State.writeResultAndFlag; split <;> [split <;> rfl; rfl]
@[simp] theorem State.writeResultAndFlag_host (x : Reg) (r : Byte) (f : Bool) : (s.writeResultAndFlag x r f).host = s.host := by unfold State.writeResultAndFlag; split <;> [split <;> rfl; rfl]
@[simp] theorem State.writeResultAndFlag_draws (x : Reg) (r : Byte) (f : Bool) : (s.writeResultAndFlag x r f).draws = s.draws := by unfold State.writeResultAndFlag; split <;> [split <;> rfl; rfl]
@[simp] theorem State.writeResultAndFlag_events (x : Reg) (r : Byte) (f : Bool) : (s.writeResultAndFlag x r f).events = s.events := by unfold State.writeResultAndFlag; split <;> [split <;> rfl; rfl]

/-! ### `State.writeByte` -/

@[simp] theorem State.writeByte_v (a : Nat) (b : Byte) : (s.writeByte a b).v = s.v := rfl
@[simp] theorem State.writeByte_pc (a : Nat) (b : Byte) : (s.writeByte a b).pc = s.pc := rfl
@[simp] theorem State.writeByte_i (a : Nat) (b : Byte) : (s.writeByte a b).i = s.i := rfl
@[simp] theorem State.writeByte_stack (a : Nat) (b : Byte) : (s.writeByte a b).stack = s.stack := rfl
@[simp] theorem State.writeByte_sp (a : Nat) (b : Byte) : (s.writeByte a b).sp = s.sp := rfl
@[simp] theorem State.writeByte_dt (a : Nat) (b : Byte) : (s.writeByte a b).dt = s.dt := rfl
@[simp] theorem State.writeByte_st (a : Nat) (b : Byte) : (s.writeByte a b).st = s.st := rfl
@[simp] theorem State.writeByte_mem (a : Nat) (b : Byte) : (s.writeByte a b).mem = Memory.set (resetByte s.cfg) s.mem a b := rfl
@[simp] theorem State.writeByte_fb (a : Nat) (b : Byte) : (s.writeByte a b).fb = s.fb := rfl
@[simp] theorem State.writeByte_dirty (a : Nat) (b : Byte) : (s.writeByte a b).dirty = s.dirty := rfl
@[simp] theorem State.writeByte_keys (a : Nat) (b : Byte) : (s.writeByte a b).keys = s.keys := rfl
@[simp] theorem State.writeByte_runState (a : Nat) (b : Byte) : (s.writeByte a b).runState = s.runState := rfl
@[simp] theorem State.writeByte_faultCause (a : Nat) (b : Byte) : (s.writeByte a b).faultCause = s.faultCause := rfl
@[simp] theorem State.writeByte_faultAddr (a : Nat) (b : Byte) : (s.writeByte a b).faultAddr = s.faultAddr := rfl
@[simp] theorem State.writeByte_faultPc (a : Nat) (b : Byte) : (s.writeByte a b).faultPc = s.faultPc := rfl
@[simp] theorem State.writeByte_cfg (a : Nat) (b : Byte) : (s.writeByte a b).cfg = s.cfg := rfl
@[simp] theorem State.writeByte_inp (a : Nat) (b : Byte) : (s.writeByte a b).inp = s.inp := rfl
@[simp] theorem State.writeByte_host (a : Nat) (b : Byte) : (s.writeByte a b).host = s.host := rfl
@[simp] theorem State.writeByte_draws (a : Nat) (b : Byte) : (s.writeByte a b).draws = s.draws := rfl
@[simp] theorem State.writeByte_events (a : Nat) (b : Byte) : (s.writeByte a b).events = s.events := rfl

/-! ### `State.writeBytes` -/

@[simp] theorem State.writeBytes_v (a : Nat) (bs : List Byte) : (s.writeBytes a bs).v = s.v := by induction bs generalizing s a with | nil => rfl | cons b bs ih => exact ih _ _
@[simp] theorem State.writeBytes_pc (a : Nat) (bs : List Byte) : (s.writeBytes a bs).pc = s.pc := by induction bs generalizing s a with | nil => rfl | cons b bs ih => exact ih _ _
@[simp] theorem State.writeBytes_i (a : Nat) (bs : List Byte) : (s.writeBytes a bs).i = s.i := by induction bs generalizing s a with | nil => rfl | cons b bs ih => exact ih _ _
@[simp] theorem State.writeBytes_stack (a : Nat) (bs : List Byte) : (s.writeBytes a bs).stack = s.stack := by induction bs generalizing s a with | nil => rfl | cons b bs ih => exact ih _ _
@[simp] theorem State.writeBytes_sp (a : Nat) (bs : List Byte) : (s.writeBytes a bs).sp = s.sp := by induction bs generalizing s a with | nil => rfl | cons b bs ih => exact ih _ _
@[simp] theorem State.writeBytes_dt (a : Nat) (bs : List Byte) : (s.writeBytes a bs).dt = s.dt := by induction bs generalizing s a with | nil => rfl | cons b bs ih => exact ih _ _
@[simp] theorem State.writeBytes_st (a : Nat) (bs : List Byte) : (s.writeBytes a bs).st = s.st := by induction bs generalizing s a with | nil => rfl | cons b bs ih => exact ih _ _
@[simp] theorem State.writeBytes_fb (a : Nat) (bs : List Byte) : (s.writeBytes a bs).fb = s.fb := by induction bs generalizing s a with | nil => rfl | cons b bs ih => exact ih _ _
@[simp] theorem State.writeBytes_dirty (a : Nat) (bs : List Byte) : (s.writeBytes a bs).dirty = s.dirty := by induction bs generalizing s a with | nil => rfl | cons b bs ih => exact ih _ _
@[simp] theorem State.writeBytes_keys (a : Nat) (bs : List Byte) : (s.writeBytes a bs).keys = s.keys := by induction bs generalizing s a with | nil => rfl | cons b bs ih => exact ih _ _
@[simp] theorem State.writeBytes_runState (a : Nat) (bs : List Byte) : (s.writeBytes a bs).runState = s.runState := by induction bs generalizing s a with | nil => rfl | cons b bs ih => exact ih _ _
@[simp] theorem State.writeBytes_faultCause (a : Nat) (bs : List Byte) : (s.writeBytes a bs).faultCause = s.faultCause := by induction bs generalizing s a with | nil => rfl | cons b bs ih => exact ih _ _
@[simp] theorem State.writeBytes_faultAddr (a : Nat) (bs : List Byte) : (s.writeBytes a bs).faultAddr = s.faultAddr := by induction bs generalizing s a with | nil => rfl | cons b bs ih => exact ih _ _
@[simp] theorem State.writeBytes_faultPc (a : Nat) (bs : List Byte) : (s.writeBytes a bs).faultPc = s.faultPc := by induction bs generalizing s a with | nil => rfl | cons b bs ih => exact ih _ _
@[simp] theorem State.writeBytes_cfg (a : Nat) (bs : List Byte) : (s.writeBytes a bs).cfg = s.cfg := by induction bs generalizing s a with | nil => rfl | cons b bs ih => exact ih _ _
@[simp] theorem State.writeBytes_inp (a : Nat) (bs : List Byte) : (s.writeBytes a bs).inp = s.inp := by induction bs generalizing s a with | nil => rfl | cons b bs ih => exact ih _ _
@[simp] theorem State.writeBytes_host (a : Nat) (bs : List Byte) : (s.writeBytes a bs).host = s.host := by induction bs generalizing s a with | nil => rfl | cons b bs ih => exact ih _ _
@[simp] theorem State.writeBytes_draws (a : Nat) (bs : List Byte) : (s.writeBytes a bs).draws = s.draws := by induction bs generalizing s a with | nil => rfl | cons b bs ih => exact ih _ _
@[simp] theorem State.writeBytes_events (a : Nat) (bs : List Byte) : (s.writeBytes a bs).events = s.events := by induction bs generalizing s a with | nil => rfl | cons b bs ih => exact ih _ _

/-! ### `State.takeFault` -/

@[simp] theorem State.takeFault_v (c : FaultCause) (a : Nat) : (s.takeFault c a).v = s.v := rfl
@[simp] theorem State.takeFault_pc (c : FaultCause) (a : Nat) : (s.takeFault c a).pc = s.pc := rfl
@[simp] theorem State.takeFault_i (c : FaultCause) (a : Nat) : (s.takeFault c a).i = s.i := rfl
@[simp] theorem State.takeFault_stack (c : FaultCause) (a : Nat) : (s.takeFault c a).stack = s.stack := rfl
@[simp] theorem State.takeFault_sp (c : FaultCause) (a : Nat) : (s.takeFault c a).sp = s.sp := rfl
@[simp] theorem State.takeFault_dt (c : FaultCause) (a : Nat) : (s.takeFault c a).dt = s.dt := rfl
@[simp] theorem State.takeFault_st (c : FaultCause) (a : Nat) : (s.takeFault c a).st = s.st := rfl
@[simp] theorem State.takeFault_mem (c : FaultCause) (a : Nat) : (s.takeFault c a).mem = s.mem := rfl
@[simp] theorem State.takeFault_fb (c : FaultCause) (a : Nat) : (s.takeFault c a).fb = s.fb := rfl
@[simp] theorem State.takeFault_dirty (c : FaultCause) (a : Nat) : (s.takeFault c a).dirty = s.dirty := rfl
@[simp] theorem State.takeFault_keys (c : FaultCause) (a : Nat) : (s.takeFault c a).keys = s.keys := rfl
@[simp] theorem State.takeFault_runState (c : FaultCause) (a : Nat) : (s.takeFault c a).runState = .faulted := rfl
@[simp] theorem State.takeFault_faultCause (c : FaultCause) (a : Nat) : (s.takeFault c a).faultCause = c := rfl
@[simp] theorem State.takeFault_faultAddr (c : FaultCause) (a : Nat) : (s.takeFault c a).faultAddr = BitVec.ofNat 17 a := rfl
@[simp] theorem State.takeFault_faultPc (c : FaultCause) (a : Nat) : (s.takeFault c a).faultPc = s.pc := rfl
@[simp] theorem State.takeFault_cfg (c : FaultCause) (a : Nat) : (s.takeFault c a).cfg = s.cfg := rfl
@[simp] theorem State.takeFault_inp (c : FaultCause) (a : Nat) : (s.takeFault c a).inp = s.inp := rfl
@[simp] theorem State.takeFault_host (c : FaultCause) (a : Nat) : (s.takeFault c a).host = s.host := rfl
@[simp] theorem State.takeFault_draws (c : FaultCause) (a : Nat) : (s.takeFault c a).draws = s.draws := rfl
@[simp] theorem State.takeFault_events (c : FaultCause) (a : Nat) : (s.takeFault c a).events = s.events := rfl

/-! ### `State.pushCall` -/

@[simp] theorem State.pushCall_v (v : Nat) : (s.pushCall v).v = s.v := rfl
@[simp] theorem State.pushCall_pc (v : Nat) : (s.pushCall v).pc = keepPc s.cfg v := rfl
@[simp] theorem State.pushCall_i (v : Nat) : (s.pushCall v).i = s.i := rfl
@[simp] theorem State.pushCall_stack (v : Nat) : (s.pushCall v).stack = s.stack.setIfInBounds s.sp.val s.nextPc := rfl
@[simp] theorem State.pushCall_dt (v : Nat) : (s.pushCall v).dt = s.dt := rfl
@[simp] theorem State.pushCall_st (v : Nat) : (s.pushCall v).st = s.st := rfl
@[simp] theorem State.pushCall_mem (v : Nat) : (s.pushCall v).mem = s.mem := rfl
@[simp] theorem State.pushCall_fb (v : Nat) : (s.pushCall v).fb = s.fb := rfl
@[simp] theorem State.pushCall_dirty (v : Nat) : (s.pushCall v).dirty = s.dirty := rfl
@[simp] theorem State.pushCall_keys (v : Nat) : (s.pushCall v).keys = s.keys := rfl
@[simp] theorem State.pushCall_runState (v : Nat) : (s.pushCall v).runState = s.runState := rfl
@[simp] theorem State.pushCall_faultCause (v : Nat) : (s.pushCall v).faultCause = s.faultCause := rfl
@[simp] theorem State.pushCall_faultAddr (v : Nat) : (s.pushCall v).faultAddr = s.faultAddr := rfl
@[simp] theorem State.pushCall_faultPc (v : Nat) : (s.pushCall v).faultPc = s.faultPc := rfl
@[simp] theorem State.pushCall_cfg (v : Nat) : (s.pushCall v).cfg = s.cfg := rfl
@[simp] theorem State.pushCall_inp (v : Nat) : (s.pushCall v).inp = s.inp := rfl
@[simp] theorem State.pushCall_host (v : Nat) : (s.pushCall v).host = s.host := rfl
@[simp] theorem State.pushCall_draws (v : Nat) : (s.pushCall v).draws = s.draws := rfl
@[simp] theorem State.pushCall_events (v : Nat) : (s.pushCall v).events = s.events := rfl

/-! ### `State.popCall` -/

@[simp] theorem State.popCall_v : s.popCall.v = s.v := rfl
@[simp] theorem State.popCall_pc : s.popCall.pc = s.topOfStack := rfl
@[simp] theorem State.popCall_i : s.popCall.i = s.i := rfl
@[simp] theorem State.popCall_stack : s.popCall.stack = s.stack := rfl
@[simp] theorem State.popCall_dt : s.popCall.dt = s.dt := rfl
@[simp] theorem State.popCall_st : s.popCall.st = s.st := rfl
@[simp] theorem State.popCall_mem : s.popCall.mem = s.mem := rfl
@[simp] theorem State.popCall_fb : s.popCall.fb = s.fb := rfl
@[simp] theorem State.popCall_dirty : s.popCall.dirty = s.dirty := rfl
@[simp] theorem State.popCall_keys : s.popCall.keys = s.keys := rfl
@[simp] theorem State.popCall_runState : s.popCall.runState = s.runState := rfl
@[simp] theorem State.popCall_faultCause : s.popCall.faultCause = s.faultCause := rfl
@[simp] theorem State.popCall_faultAddr : s.popCall.faultAddr = s.faultAddr := rfl
@[simp] theorem State.popCall_faultPc : s.popCall.faultPc = s.faultPc := rfl
@[simp] theorem State.popCall_cfg : s.popCall.cfg = s.cfg := rfl
@[simp] theorem State.popCall_inp : s.popCall.inp = s.inp := rfl
@[simp] theorem State.popCall_host : s.popCall.host = s.host := rfl
@[simp] theorem State.popCall_draws : s.popCall.draws = s.draws := rfl
@[simp] theorem State.popCall_events : s.popCall.events = s.events := rfl

/-! ### `State.emit` -/

@[simp] theorem State.emit_v (e : Event) : (s.emit e).v = s.v := rfl
@[simp] theorem State.emit_pc (e : Event) : (s.emit e).pc = s.pc := rfl
@[simp] theorem State.emit_i (e : Event) : (s.emit e).i = s.i := rfl
@[simp] theorem State.emit_stack (e : Event) : (s.emit e).stack = s.stack := rfl
@[simp] theorem State.emit_sp (e : Event) : (s.emit e).sp = s.sp := rfl
@[simp] theorem State.emit_dt (e : Event) : (s.emit e).dt = s.dt := rfl
@[simp] theorem State.emit_st (e : Event) : (s.emit e).st = s.st := rfl
@[simp] theorem State.emit_mem (e : Event) : (s.emit e).mem = s.mem := rfl
@[simp] theorem State.emit_fb (e : Event) : (s.emit e).fb = s.fb := rfl
@[simp] theorem State.emit_dirty (e : Event) : (s.emit e).dirty = s.dirty := rfl
@[simp] theorem State.emit_keys (e : Event) : (s.emit e).keys = s.keys := rfl
@[simp] theorem State.emit_runState (e : Event) : (s.emit e).runState = s.runState := rfl
@[simp] theorem State.emit_faultCause (e : Event) : (s.emit e).faultCause = s.faultCause := rfl
@[simp] theorem State.emit_faultAddr (e : Event) : (s.emit e).faultAddr = s.faultAddr := rfl
@[simp] theorem State.emit_faultPc (e : Event) : (s.emit e).faultPc = s.faultPc := rfl
@[simp] theorem State.emit_cfg (e : Event) : (s.emit e).cfg = s.cfg := rfl
@[simp] theorem State.emit_inp (e : Event) : (s.emit e).inp = s.inp := rfl
@[simp] theorem State.emit_host (e : Event) : (s.emit e).host = s.host := rfl
@[simp] theorem State.emit_draws (e : Event) : (s.emit e).draws = s.draws := rfl
@[simp] theorem State.emit_events (e : Event) : (s.emit e).events = s.events ++ [e] := rfl

/-! ### `State.paint` -/

@[simp] theorem State.paint_v (g : Grid) : (s.paint g).v = s.v := rfl
@[simp] theorem State.paint_pc (g : Grid) : (s.paint g).pc = s.pc := rfl
@[simp] theorem State.paint_i (g : Grid) : (s.paint g).i = s.i := rfl
@[simp] theorem State.paint_stack (g : Grid) : (s.paint g).stack = s.stack := rfl
@[simp] theorem State.paint_sp (g : Grid) : (s.paint g).sp = s.sp := rfl
@[simp] theorem State.paint_dt (g : Grid) : (s.paint g).dt = s.dt := rfl
@[simp] theorem State.paint_st (g : Grid) : (s.paint g).st = s.st := rfl
@[simp] theorem State.paint_mem (g : Grid) : (s.paint g).mem = s.mem := rfl
@[simp] theorem State.paint_fb (g : Grid) : (s.paint g).fb = g := rfl
@[simp] theorem State.paint_dirty (g : Grid) : (s.paint g).dirty = true := rfl
@[simp] theorem State.paint_keys (g : Grid) : (s.paint g).keys = s.keys := rfl
@[simp] theorem State.paint_runState (g : Grid) : (s.paint g).runState = s.runState := rfl
@[simp] theorem State.paint_faultCause (g : Grid) : (s.paint g).faultCause = s.faultCause := rfl
@[simp] theorem State.paint_faultAddr (g : Grid) : (s.paint g).faultAddr = s.faultAddr := rfl
@[simp] theorem State.paint_faultPc (g : Grid) : (s.paint g).faultPc = s.faultPc := rfl
@[simp] theorem State.paint_cfg (g : Grid) : (s.paint g).cfg = s.cfg := rfl
@[simp] theorem State.paint_inp (g : Grid) : (s.paint g).inp = s.inp := rfl
@[simp] theorem State.paint_host (g : Grid) : (s.paint g).host = s.host := rfl
@[simp] theorem State.paint_draws (g : Grid) : (s.paint g).draws = s.draws := rfl
@[simp] theorem State.paint_events (g : Grid) : (s.paint g).events = s.events := rfl

/-! ### `State.advanceI` -/

@[simp] theorem State.advanceI_v (x : Reg) : (s.advanceI x).v = s.v := by unfold State.advanceI; split <;> rfl
@[simp] theorem State.advanceI_pc (x : Reg) : (s.advanceI x).pc = s.pc := by unfold State.advanceI; split <;> rfl
@[simp] theorem State.advanceI_i (x : Reg) : (s.advanceI x).i = if s.cfg.ldstAdvanceI then wrapI s.cfg (s.i.toNat + x.val + 1) else s.i := by unfold State.advanceI; split <;> rfl
@[simp] theorem State.advanceI_stack (x : Reg) : (s.advanceI x).stack = s.stack := by unfold State.advanceI; split <;> rfl
@[simp] theorem State.advanceI_sp (x : Reg) : (s.advanceI x).sp = s.sp := by unfold State.advanceI; split <;> rfl
@[simp] theorem State.advanceI_dt (x : Reg) : (s.advanceI x).dt = s.dt := by unfold State.advanceI; split <;> rfl
@[simp] theorem State.advanceI_st (x : Reg) : (s.advanceI x).st = s.st := by unfold State.advanceI; split <;> rfl
@[simp] theorem State.advanceI_mem (x : Reg) : (s.advanceI x).mem = s.mem := by unfold State.advanceI; split <;> rfl
@[simp] theorem State.advanceI_fb (x : Reg) : (s.advanceI x).fb = s.fb := by unfold State.advanceI; split <;> rfl
@[simp] theorem State.advanceI_dirty (x : Reg) : (s.advanceI x).dirty = s.dirty := by unfold State.advanceI; split <;> rfl
@[simp] theorem State.advanceI_keys (x : Reg) : (s.advanceI x).keys = s.keys := by unfold State.advanceI; split <;> rfl
@[simp] theorem State.advanceI_runState (x : Reg) : (s.advanceI x).runState = s.runState := by unfold State.advanceI; split <;> rfl
@[simp] theorem State.advanceI_faultCause (x : Reg) : (s.advanceI x).faultCause = s.faultCause := by unfold State.advanceI; split <;> rfl
@[simp] theorem State.advanceI_faultAddr (x : Reg) : (s.advanceI x).faultAddr = s.faultAddr := by unfold State.advanceI; split <;> rfl
@[simp] theorem State.advanceI_faultPc (x : Reg) : (s.advanceI x).faultPc = s.faultPc := by unfold State.advanceI; split <;> rfl
@[simp] theorem State.advanceI_cfg (x : Reg) : (s.advanceI x).cfg = s.cfg := by unfold State.advanceI; split <;> rfl
@[simp] theorem State.advanceI_inp (x : Reg) : (s.advanceI x).inp = s.inp := by unfold State.advanceI; split <;> rfl
@[simp] theorem State.advanceI_host (x : Reg) : (s.advanceI x).host = s.host := by unfold State.advanceI; split <;> rfl
@[simp] theorem State.advanceI_draws (x : Reg) : (s.advanceI x).draws = s.draws := by unfold State.advanceI; split <;> rfl
@[simp] theorem State.advanceI_events (x : Reg) : (s.advanceI x).events = s.events := by unfold State.advanceI; split <;> rfl

/-! ### `State.loadRegsFrom` -/

@[simp] theorem State.loadRegsFrom_pc (x : Reg) (a : Nat) : (s.loadRegsFrom x a).pc = s.pc := rfl
@[simp] theorem State.loadRegsFrom_i (x : Reg) (a : Nat) : (s.loadRegsFrom x a).i = s.i := rfl
@[simp] theorem State.loadRegsFrom_stack (x : Reg) (a : Nat) : (s.loadRegsFrom x a).stack = s.stack := rfl
@[simp] theorem State.loadRegsFrom_sp (x : Reg) (a : Nat) : (s.loadRegsFrom x a).sp = s.sp := rfl
@[simp] theorem State.loadRegsFrom_dt (x : Reg) (a : Nat) : (s.loadRegsFrom x a).dt = s.dt := rfl
@[simp] theorem State.loadRegsFrom_st (x : Reg) (a : Nat) : (s.loadRegsFrom x a).st = s.st := rfl
@[simp] theorem State.loadRegsFrom_mem (x : Reg) (a : Nat) : (s.loadRegsFrom x a).mem = s.mem := rfl
@[simp] theorem State.loadRegsFrom_fb (x : Reg) (a : Nat) : (s.loadRegsFrom x a).fb = s.fb := rfl
@[simp] theorem State.loadRegsFrom_dirty (x : Reg) (a : Nat) : (s.loadRegsFrom x a).dirty = s.dirty := rfl
@[simp] theorem State.loadRegsFrom_keys (x : Reg) (a : Nat) : (s.loadRegsFrom x a).keys = s.keys := rfl
@[simp] theorem State.loadRegsFrom_runState (x : Reg) (a : Nat) : (s.loadRegsFrom x a).runState = s.runState := rfl
@[simp] theorem State.loadRegsFrom_faultCause (x : Reg) (a : Nat) : (s.loadRegsFrom x a).faultCause = s.faultCause := rfl
@[simp] theorem State.loadRegsFrom_faultAddr (x : Reg) (a : Nat) : (s.loadRegsFrom x a).faultAddr = s.faultAddr := rfl
@[simp] theorem State.loadRegsFrom_faultPc (x : Reg) (a : Nat) : (s.loadRegsFrom x a).faultPc = s.faultPc := rfl
@[simp] theorem State.loadRegsFrom_cfg (x : Reg) (a : Nat) : (s.loadRegsFrom x a).cfg = s.cfg := rfl
@[simp] theorem State.loadRegsFrom_inp (x : Reg) (a : Nat) : (s.loadRegsFrom x a).inp = s.inp := rfl
@[simp] theorem State.loadRegsFrom_host (x : Reg) (a : Nat) : (s.loadRegsFrom x a).host = s.host := rfl
@[simp] theorem State.loadRegsFrom_draws (x : Reg) (a : Nat) : (s.loadRegsFrom x a).draws = s.draws := rfl
@[simp] theorem State.loadRegsFrom_events (x : Reg) (a : Nat) : (s.loadRegsFrom x a).events = s.events := rfl

/-! ### `State.poll` -/

@[simp] theorem State.poll_v (inp : CycleIn) : (s.poll inp).v = s.v := rfl
@[simp] theorem State.poll_pc (inp : CycleIn) : (s.poll inp).pc = s.pc := rfl
@[simp] theorem State.poll_i (inp : CycleIn) : (s.poll inp).i = s.i := rfl
@[simp] theorem State.poll_stack (inp : CycleIn) : (s.poll inp).stack = s.stack := rfl
@[simp] theorem State.poll_sp (inp : CycleIn) : (s.poll inp).sp = s.sp := rfl
@[simp] theorem State.poll_dt (inp : CycleIn) : (s.poll inp).dt = s.dt := rfl
@[simp] theorem State.poll_st (inp : CycleIn) : (s.poll inp).st = s.st := rfl
@[simp] theorem State.poll_mem (inp : CycleIn) : (s.poll inp).mem = s.mem := rfl
@[simp] theorem State.poll_fb (inp : CycleIn) : (s.poll inp).fb = s.fb := rfl
@[simp] theorem State.poll_dirty (inp : CycleIn) : (s.poll inp).dirty = s.dirty := rfl
@[simp] theorem State.poll_keys (inp : CycleIn) : (s.poll inp).keys = inp.keys := rfl
@[simp] theorem State.poll_runState (inp : CycleIn) : (s.poll inp).runState = s.runState := rfl
@[simp] theorem State.poll_faultCause (inp : CycleIn) : (s.poll inp).faultCause = s.faultCause := rfl
@[simp] theorem State.poll_faultAddr (inp : CycleIn) : (s.poll inp).faultAddr = s.faultAddr := rfl
@[simp] theorem State.poll_faultPc (inp : CycleIn) : (s.poll inp).faultPc = s.faultPc := rfl
@[simp] theorem State.poll_cfg (inp : CycleIn) : (s.poll inp).cfg = s.cfg := rfl
@[simp] theorem State.poll_inp (inp : CycleIn) : (s.poll inp).inp = inp := rfl
@[simp] theorem State.poll_host (inp : CycleIn) : (s.poll inp).host = s.host := rfl
@[simp] theorem State.poll_draws (inp : CycleIn) : (s.poll inp).draws = s.draws := rfl
@[simp] theorem State.poll_events (inp : CycleIn) : (s.poll inp).events = s.events := rfl

/-! ### `State.halt` -/

@[simp] theorem State.halt_v : s.halt.v = s.v := rfl
@[simp] theorem State.halt_pc : s.halt.pc = s.pc := rfl
@[simp] theorem State.halt_i : s.halt.i = s.i := rfl
@[simp] theorem State.halt_stack : s.halt.stack = s.stack := rfl
@[simp] theorem State.halt_sp : s.halt.sp = s.sp := rfl
@[simp] theorem State.halt_dt : s.halt.dt = s.dt := rfl
@[simp] theorem State.halt_st : s.halt.st = s.st := rfl
@[simp] theorem State.halt_mem : s.halt.mem = s.mem := rfl
@[simp] theorem State.halt_fb : s.halt.fb = s.fb := rfl
@[simp] theorem State.halt_dirty : s.halt.dirty = s.dirty := rfl
@[simp] theorem State.halt_keys : s.halt.keys = s.keys := rfl
@[simp] theorem State.halt_runState : s.halt.runState = .halted := rfl
@[simp] theorem State.halt_faultCause : s.halt.faultCause = s.faultCause := rfl
@[simp] theorem State.halt_faultAddr : s.halt.faultAddr = s.faultAddr := rfl
@[simp] theorem State.halt_faultPc : s.halt.faultPc = s.faultPc := rfl
@[simp] theorem State.halt_cfg : s.halt.cfg = s.cfg := rfl
@[simp] theorem State.halt_inp : s.halt.inp = s.inp := rfl
@[simp] theorem State.halt_host : s.halt.host = s.host := rfl
@[simp] theorem State.halt_draws : s.halt.draws = s.draws := rfl
@[simp] theorem State.halt_events : s.halt.events = s.events := rfl

/-! ### `State.render` -/

@[simp] theorem State.render_v : s.render.v = s.v := by unfold State.render; split <;> rfl
@[simp] theorem State.render_pc : s.render.pc = s.pc := by unfold State.render; split <;> rfl
@[simp] theorem State.render_i : s.render.i = s.i := by unfold State.render; split <;> rfl
@[simp] theorem State.render_stack : s.render.stack = s.stack := by unfold State.render; split <;> rfl
@[simp] theorem State.render_sp : s.render.sp = s.sp := by unfold State.render; split <;> rfl
@[simp] theorem State.render_dt : s.render.dt = s.dt := by unfold State.render; split <;> rfl
@[simp] theorem State.render_st : s.render.st = s.st := by unfold State.render; split <;> rfl
@[simp] theorem State.render_mem : s.render.mem = s.mem := by unfold State.render; split <;> rfl
@[simp] theorem State.render_fb : s.render.fb = s.fb := by unfold State.render; split <;> rfl
@[simp] theorem State.render_dirty : s.render.dirty = false := by unfold State.render; split <;> simp_all
@[simp] theorem State.render_keys : s.render.keys = s.keys := by unfold State.render; split <;> rfl
@[simp] theorem State.render_runState : s.render.runState = s.runState := by unfold State.render; split <;> rfl
@[simp] theorem State.render_faultCause : s.render.faultCause = s.faultCause := by unfold State.render; split <;> rfl
@[simp] theorem State.render_faultAddr : s.render.faultAddr = s.faultAddr := by unfold State.render; split <;> rfl
@[simp] theorem State.render_faultPc : s.render.faultPc = s.faultPc := by unfold State.render; split <;> rfl
@[simp] theorem State.render_cfg : s.render.cfg = s.cfg := by unfold State.render; split <;> rfl
@[simp] theorem State.render_inp : s.render.inp = s.inp := by unfold State.render; split <;> rfl
@[simp] theorem State.render_host : s.render.host = s.host := by unfold State.render; split <;> rfl
@[simp] theorem State.render_draws : s.render.draws = s.draws := by unfold State.render; split <;> rfl
@[simp] theorem State.render_events : s.render.events = if s.dirty then s.events ++ [.present s.fb] else s.events := by unfold State.render; split <;> rfl

/-! ### `State.tick` -/

@[simp] theorem State.tick_v : s.tick.v = s.v := by unfold State.tick; split <;> [(dsimp only; split <;> rfl); rfl]
@[simp] theorem State.tick_pc : s.tick.pc = s.pc := by unfold State.tick; split <;> [(dsimp only; split <;> rfl); rfl]
@[simp] theorem State.tick_i : s.tick.i = s.i := by unfold State.tick; split <;> [(dsimp only; split <;> rfl); rfl]
@[simp] theorem State.tick_stack : s.tick.stack = s.stack := by unfold State.tick; split <;> [(dsimp only; split <;> rfl); rfl]
@[simp] theorem State.tick_sp : s.tick.sp = s.sp := by unfold State.tick; split <;> [(dsimp only; split <;> rfl); rfl]
@[simp] theorem State.tick_dt : s.tick.dt = if s.inp.tick then tickDown s.dt else s.dt := by unfold State.tick; split <;> rfl
@[simp] theorem State.tick_st : s.tick.st = if s.inp.tick then tickDown s.st else s.st := by unfold State.tick; split <;> rfl
@[simp] theorem State.tick_mem : s.tick.mem = s.mem := by unfold State.tick; split <;> [(dsimp only; split <;> rfl); rfl]
@[simp] theorem State.tick_fb : s.tick.fb = s.fb := by unfold State.tick; split <;> [(dsimp only; split <;> rfl); rfl]
@[simp] theorem State.tick_dirty : s.tick.dirty = s.dirty := by unfold State.tick; split <;> [(dsimp only; split <;> rfl); rfl]
@[simp] theorem State.tick_keys : s.tick.keys = s.keys := by unfold State.tick; split <;> [(dsimp only; split <;> rfl); rfl]
@[simp] theorem State.tick_runState : s.tick.runState = s.runState := by unfold State.tick; split <;> [(dsimp only; split <;> rfl); rfl]
@[simp] theorem State.tick_faultCause : s.tick.faultCause = s.faultCause := by unfold State.tick; split <;> [(dsimp only; split <;> rfl); rfl]
@[simp] theorem State.tick_faultAddr : s.tick.faultAddr = s.faultAddr := by unfold State.tick; split <;> [(dsimp only; split <;> rfl); rfl]
@[simp] theorem State.tick_faultPc : s.tick.faultPc = s.faultPc := by unfold State.tick; split <;> [(dsimp only; split <;> rfl); rfl]
@[simp] theorem State.tick_cfg : s.tick.cfg = s.cfg := by unfold State.tick; split <;> [(dsimp only; split <;> rfl); rfl]
@[simp] theorem State.tick_inp : s.tick.inp = s.inp := by unfold State.tick; split <;> [(dsimp only; split <;> rfl); rfl]
@[simp] theorem State.tick_host : s.tick.host = s.host := by unfold State.tick; split <;> [(dsimp only; split <;> rfl); rfl]
@[simp] theorem State.tick_draws : s.tick.draws = s.draws := by unfold State.tick; split <;> [(dsimp only; split <;> rfl); rfl]
@[simp] theorem State.tick_events : s.tick.events = if s.inp.tick = true ∧ s.st = 1 then s.events ++ [.toneStop] else s.events := by unfold State.tick; split <;> simp_all; split <;> rfl

end Sys2Proof.Machine
end

