-- ==== Sys2Proof/Laws/Ops.lean ====
section
/-! SUPPORT. One lemma per shared operation that says what it does: registers and flags, reads and writes of memory,
the validation of addresses, the key selection. Proofs cite these and do not unfold the operations. -/

namespace Sys2Proof.Machine

/-! ### Registers and flags -/

/-- A register write changes that register and no other (10_state.md R21). -/
theorem State.reg_setReg (s : State) (x y : Reg) (b : Byte) : (s.setReg x b).reg y = if y = x then b else s.reg y := by
  unfold State.reg State.setReg
  simp only [Fin.getElem_fin, Vector.getElem_set, Fin.val_inj]
  split <;> [simp_all; (split <;> [simp_all; rfl])]

theorem State.reg_setReg_other (s : State) {x y : Reg} (b : Byte) (h : y ≠ x) : (s.setReg x b).reg y = s.reg y := by
  rw [State.reg_setReg, if_neg h]

theorem State.reg_setFlag (s : State) (y : Reg) (f : Bool) :
    (s.setFlag f).reg y = if y = Reg.flag then flagByte f else s.reg y :=
  State.reg_setReg s Reg.flag y (flagByte f)

theorem flagByte_toNat (f : Bool) : (flagByte f).toNat = if f then 1 else 0 := by cases f <;> rfl

/-- 42_load_alu.md R141, every case of it. -/
theorem State.reg_writeResultAndFlag (s : State) (x y : Reg) (r : Byte) (f : Bool) :
    (s.writeResultAndFlag x r f).reg y =
      if y = Reg.flag then (if x = Reg.flag ∧ s.cfg.vfPriority = .result then r else flagByte f)
      else if y = x then r else s.reg y := by
  unfold State.writeResultAndFlag
  by_cases hx : x = Reg.flag
  · subst hx
    cases hp : s.cfg.vfPriority <;> by_cases hy : y = Reg.flag <;> simp [State.reg_setFlag, State.reg_setReg, hy]
  · simp [hx, State.reg_setFlag, State.reg_setReg]

@[simp] theorem State.reg_setPc (s : State) (t : Nat) (y : Reg) : (s.setPc t).reg y = s.reg y := rfl
@[simp] theorem State.reg_advance (s : State) (y : Reg) : s.advance.reg y = s.reg y := rfl
@[simp] theorem State.reg_setI (s : State) (t : Word) (y : Reg) : (s.setI t).reg y = s.reg y := rfl
@[simp] theorem State.reg_setDt (s : State) (b : Byte) (y : Reg) : (s.setDt b).reg y = s.reg y := rfl
@[simp] theorem State.reg_setSt (s : State) (b : Byte) (y : Reg) : (s.setSt b).reg y = s.reg y := rfl
@[simp] theorem State.reg_paint (s : State) (g : Grid) (y : Reg) : (s.paint g).reg y = s.reg y := rfl
@[simp] theorem State.reg_emit (s : State) (e : Event) (y : Reg) : (s.emit e).reg y = s.reg y := rfl
@[simp] theorem State.reg_skipIf (s : State) (b : Bool) (y : Reg) : (s.skipIf b).reg y = s.reg y := by
  simp [State.reg]
@[simp] theorem State.reg_advanceI (s : State) (x y : Reg) : (s.advanceI x).reg y = s.reg y := by
  simp [State.reg]
@[simp] theorem State.reg_writeBytes (s : State) (a : Nat) (bs : List Byte) (y : Reg) :
    (s.writeBytes a bs).reg y = s.reg y := by
  simp [State.reg]

/-- The block load: V0 to Vx from ascending addresses, the others kept (43_index_memory.md R176). -/
theorem State.reg_loadRegsFrom (s : State) (x y : Reg) (a : Nat) :
    (s.loadRegsFrom x a).reg y = if y ≤ x then s.readByte (a + y.val) else s.reg y := by
  simp [State.reg, State.loadRegsFrom]

/-! ### The program counter -/

theorem keepPc_toNat (c : Config) (v : Nat) : (keepPc c v).toNat = v % 2 ^ c.pcWidth.val % 65536 :=
  BitVec.toNat_ofNat _ _

/-- What is written to `pc` fits its width (10_state.md R24). -/
theorem keepPc_lt (c : Config) (v : Nat) : (keepPc c v).toNat < 2 ^ c.pcWidth.val := by
  rw [keepPc_toNat]
  exact lt_of_le_of_lt (Nat.mod_le _ _) (Nat.mod_lt v (Nat.two_pow_pos c.pcWidth.val))

theorem keepPc_le (c : Config) (v : Nat) : (keepPc c v).toNat ≤ v := by
  rw [keepPc_toNat]
  exact le_trans (Nat.mod_le _ _) (Nat.mod_le _ _)

/-- A value of 16 bits that fits is kept as it is. -/
theorem keepPc_of_lt {c : Config} {v : Nat} (h : v < 2 ^ c.pcWidth.val) (h16 : v < 65536) :
    (keepPc c v).toNat = v := by
  rw [keepPc_toNat, Nat.mod_eq_of_lt h, Nat.mod_eq_of_lt h16]

/-- A counter of 13 bits or more holds every value below 0x2000. -/
theorem lt_of_wide {w v : Nat} (hw : 13 ≤ w) (h : v < 0x2000) : v < 2 ^ w :=
  lt_of_lt_of_le h (Nat.pow_le_pow_right (n := 2) (by decide) hw)

/-! ### Memory -/

/-- Memory at reset is in canonical form and reads as its reset contents. -/
theorem State.reset_memWf : State.reset.memWf := rfl

theorem State.readByte_writeByte_same {s : State} (h : s.memWf) (a : Nat) (b : Byte) :
    (s.writeByte a b).readByte a = b :=
  Memory.get_set_same h a b

theorem State.readByte_writeByte_other (s : State) {a c : Nat} (b : Byte) (h : c ≠ a) :
    (s.writeByte a b).readByte c = s.readByte c :=
  Memory.get_set_other s.mem b h

theorem State.memWf_writeByte {s : State} (h : s.memWf) {a : Nat} (b : Byte) (ha : a ≤ memTop) :
    (s.writeByte a b).memWf :=
  Memory.wf_set b h ha

/-- A store of bytes leaves every address outside them alone. -/
theorem State.readByte_writeBytes_other (s : State) (a : Nat) (bs : List Byte) {c : Nat}
    (h : c < a ∨ a + bs.length ≤ c) : (s.writeBytes a bs).readByte c = s.readByte c := by
  induction bs generalizing s a with
  | nil => rfl
  | cons b bs ih =>
    simp only [List.length_cons] at h
    rw [State.writeBytes, ih _ _ (by omega), State.readByte_writeByte_other _ _ (by omega)]

/-- A store of bytes within memory keeps the canonical form. -/
theorem State.memWf_writeBytes {s : State} (h : s.memWf) (a : Nat) (bs : List Byte)
    (ha : a + bs.length ≤ memTop + 1) : (s.writeBytes a bs).memWf := by
  induction bs generalizing s a with
  | nil => exact h
  | cons b bs ih =>
    simp only [List.length_cons, memTop] at ha
    exact ih (State.memWf_writeByte h b (by simp only [memTop]; omega)) _ (by simp only [memTop]; omega)

/-- A store of bytes within memory puts each byte at its address. -/
theorem State.readByte_writeBytes {s : State} (h : s.memWf) (a : Nat) (bs : List Byte)
    (ha : a + bs.length ≤ memTop + 1) {k : Nat} (hk : k < bs.length) :
    (s.writeBytes a bs).readByte (a + k) = bs[k] := by
  induction bs generalizing s a k with
  | nil => exact absurd hk (Nat.not_lt_zero k)
  | cons b bs ih =>
    simp only [List.length_cons, memTop] at ha hk
    have hw := State.memWf_writeByte h b (a := a) (by simp only [memTop]; omega)
    cases k with
    | zero =>
      rw [State.writeBytes, State.readByte_writeBytes_other _ _ _ (by omega)]
      exact State.readByte_writeByte_same h a b
    | succ k =>
      have := ih hw (a + 1) (by simp only [memTop]; omega) (k := k) (by omega)
      rw [State.writeBytes, show a + (k + 1) = a + 1 + k by omega, this]
      rfl

/-- The reads of other updates: what `readByte` sees depends on memory and the configuration only. -/
theorem State.readByte_congr {s t : State} (hm : t.mem = s.mem) (hc : t.cfg = s.cfg) (a : Nat) :
    t.readByte a = s.readByte a := by
  unfold State.readByte; rw [hm, hc]

/-! ### Validation -/

theorem readFault_eq_none_iff (a : Nat) : readFault a = none ↔ a ≤ 0xFFF := by
  unfold readFault; split <;> simp_all

theorem writeFault_eq_none_iff (c : Config) (a : Nat) :
    writeFault c a = none ↔ a ≤ 0xFFF ∧ (a ≤ 0x1FF → c.reservedWrite = .perform) := by
  unfold writeFault
  cases c.reservedWrite with
  | fault => simp; split <;> simp_all
  | perform => simp

/-- The validation passes exactly when every address passes (20_memory.md R55). -/
theorem firstFault_eq_none_iff (chk : Nat → Option FaultCause) (a n : Nat) :
    firstFault chk a n = none ↔ ∀ k, k < n → chk (a + k) = none := by
  induction n generalizing a with
  | zero => simp [firstFault]
  | succ n ih =>
    unfold firstFault
    constructor
    · intro h k hk
      split at h
      · exact absurd h (by simp)
      · cases k with
        | zero => assumption
        | succ k => rw [show a + (k + 1) = a + 1 + k by omega]; exact (ih _).1 h k (by omega)
    · intro h
      have h0 : chk a = none := h 0 (by omega)
      simp only [h0]
      exact (ih _).2 fun k hk => by rw [show a + 1 + k = a + (k + 1) by omega]; exact h _ (by omega)

/-- The validation reports the lowest failing address and its cause (60_exceptions.md R227). -/
theorem firstFault_eq_some {chk : Nat → Option FaultCause} {a n : Nat} {c : FaultCause} {b : Nat}
    (h : firstFault chk a n = some (c, b)) :
    a ≤ b ∧ b < a + n ∧ chk b = some c ∧ ∀ k, a ≤ k → k < b → chk k = none := by
  induction n generalizing a with
  | zero => exact absurd h (by simp [firstFault])
  | succ n ih =>
    unfold firstFault at h
    split at h
    · injection h with h
      injection h with hc hb
      subst hc hb
      exact ⟨le_refl _, by omega, ‹_›, fun k h1 h2 => by omega⟩
    · obtain ⟨h1, h2, h3, h4⟩ := ih h
      refine ⟨by omega, by omega, h3, fun k hk hk' => ?_⟩
      by_cases e : k = a
      · subst e; assumption
      · exact h4 k (by omega) hk'

theorem readFault_eq_some {a : Nat} {c : FaultCause} (h : readFault a = some c) : c = .memRange ∧ 0xFFF < a := by
  unfold readFault at h
  split at h
  · exact ⟨by injection h with h; exact h.symm, by simpa using ‹_›⟩
  · exact absurd h (by simp)

theorem writeFault_eq_some {cfg : Config} {a : Nat} {c : FaultCause} (h : writeFault cfg a = some c) :
    (c = .memRange ∧ 0xFFF < a) ∨ (c = .memReserved ∧ a ≤ 0x1FF ∧ cfg.reservedWrite = .fault) := by
  unfold writeFault at h
  split at h
  · exact .inl ⟨by injection h with h; exact h.symm, by simpa using ‹_›⟩
  · split at h
    · exact .inr ⟨by injection h with h; exact h.symm, by simpa using ‹_›⟩
    · exact absurd h (by simp)

/-! ### Stores at `I`, the load port -/

/-- A store at `I` either faults with a cause and an address of the validation, or stores all its bytes. -/
theorem State.storeAtI_eq_next {s t : State} {bytes : List Byte} {andThen : State → State}
    (h : s.storeAtI bytes andThen = .next t) :
    (∃ c a, firstFault (writeFault s.cfg) s.i.toNat bytes.length = some (c, a) ∧ t = s.takeFault c a) ∨
    (firstFault (writeFault s.cfg) s.i.toNat bytes.length = none ∧
      t = andThen (s.advance.writeBytes s.i.toNat bytes)) := by
  unfold State.storeAtI at h
  split at h <;> injection h with h
  · exact .inl ⟨_, _, ‹_›, h.symm⟩
  · exact .inr ⟨‹_›, h.symm⟩

theorem State.length_regsTo (s : State) (x : Reg) : (s.regsTo x).length = x.val + 1 := by
  have := x.isLt
  simp [State.regsTo]

theorem State.getElem_regsTo (s : State) (x r : Reg) (h : r.val < (s.regsTo x).length) :
    (s.regsTo x)[r.val] = s.reg r := by
  simp [State.regsTo, State.reg]

theorem wrapI_toNat (c : Config) (n : Nat) : (wrapI c n).toNat = if c.addiMask12 then n % 4096 else n % 65536 := by
  unfold wrapI
  split
  · simp only [BitVec.toNat_ofNat]
    omega
  · simp

/-- A ROM that fits is stored whole (70_reset_and_hazards.md R264). -/
theorem State.loadFrom_fits (s : State) (a : Nat) (rom : List Byte) (h : a + rom.length ≤ 0x1000) :
    s.loadFrom a rom = s.writeBytes a rom := by
  induction rom generalizing s a with
  | nil => rfl
  | cons b rom ih =>
    simp only [List.length_cons] at h
    simp only [State.loadFrom, State.writeBytes, memTop]
    rw [if_neg (by omega), ih _ _ (by omega)]

/-- A ROM that does not fit faults at 0x1000, with the bytes below stored (70_reset_and_hazards.md R264). -/
theorem State.loadFrom_long (s : State) (a : Nat) (rom : List Byte) (ha : a ≤ 0x1000) (h : 0x1000 < a + rom.length) :
    s.loadFrom a rom = (s.writeBytes a (rom.take (0x1000 - a))).loadFault 0x1000 := by
  induction rom generalizing s a with
  | nil => simp at h; omega
  | cons b rom ih =>
    simp only [List.length_cons] at h
    by_cases e : a = 0x1000
    · subst e; simp [State.loadFrom, State.writeBytes]
    · simp only [State.loadFrom, memTop]
      rw [if_neg (by omega), ih _ _ (by omega) (by omega), show 0x1000 - a = (0x1000 - (a + 1)) + 1 by omega,
        List.take_succ_cons]
      rfl

/-! ### Keys -/

/-- The lowest key of a set that is not empty is a member, and no lower key is. -/
theorem lowestKey_spec {k : Word} (h : k ≠ 0) :
    k.getLsbD (lowestKey k).val = true ∧ ∀ j : Key, j < lowestKey k → k.getLsbD j.val = false := by
  unfold lowestKey
  cases hf : (List.finRange 16).find? (fun (j : Key) => k.getLsbD j.val) with
  | none =>
    refine absurd (BitVec.eq_of_getLsbD_eq fun i hi => ?_) h
    have := List.find?_eq_none.1 hf (⟨i, hi⟩ : Key) (List.mem_finRange _)
    simpa using this
  | some j =>
    refine ⟨by simpa using List.find?_some hf, fun m hm => ?_⟩
    obtain ⟨_, as, bs, hsplit, hall⟩ := List.find?_eq_some_iff_append.1 hf
    have hmem : m ∈ as ++ j :: bs := hsplit ▸ List.mem_finRange m
    have hsorted : (as ++ j :: bs).Pairwise (· < ·) := hsplit ▸ List.pairwise_lt_finRange 16
    have hm' : m < j := by simpa using hm
    rcases List.mem_append.1 hmem with h1 | h1
    · simpa using hall m h1
    · rcases List.mem_cons.1 h1 with h2 | h2
      · exact absurd hm' (by simp [h2])
      · have := (List.pairwise_append.1 hsorted).2.1
        have := (List.pairwise_cons.1 this).1 m h2
        exact absurd hm' (lt_asymm this)

/-- `key_select` returns a member of a set that is not empty (45_timer_input.md R206). -/
theorem keySelect_mem (c : Config) {k : Word} (h : k ≠ 0) : k.getLsbD (keySelect c k).val = true := by
  unfold keySelect
  split
  · split
    · assumption
    · exact (lowestKey_spec h).1
  · exact (lowestKey_spec h).1

end Sys2Proof.Machine
end

