-- ==== Sys2Proof/Laws/Cycle.lean ====
section
/-! SUPPORT. What the phases of a cycle and one step can do: the fetch, render and tick, a cycle, a host move. Proofs cite
these and do not unfold the step. -/

namespace Sys2Proof.Machine

/-- Every instruction ends in a next state: no meaning faults or refuses. -/
theorem exec_eq_next (i : Instr) (s : State) : ∃ t, exec i s = .next t := by
  cases i <;>
    simp only [exec, execCls, execRet, execJp, execCall, execSeImm, execSeReg, execSneImm, execSneReg, execLdImm,
      execLdReg, execAddImm, execOrReg, execAndReg, execXorReg, execAddReg, execSub, execSubn, execShr, execShl,
      execLdI, execJpV0, execRnd, execDrw, execSkp, execSknp, execLdVxDt, execLdDtVx, execLdStVx, execLdVxK, execAddI,
      execLdF, execLdB, execStoreRegs, execLoadRegs, execUnknown, State.storeAtI] <;>
    first | exact ⟨_, rfl⟩ | (split <;> exact ⟨_, rfl⟩)

/-- The fetch at an address of at most 0xFFE reads the big-endian word there (20_memory.md R57). -/
theorem State.fetch_eq_ok {s : State} (h : s.pc.toNat ≤ 0xFFE) :
    s.fetch = .ok (wordOfBytes (s.readByte s.pc.toNat) (s.readByte (s.pc.toNat + 1))) := by
  have : firstFault readFault s.pc.toNat 2 = none :=
    (firstFault_eq_none_iff _ _ _).2 fun k hk => (readFault_eq_none_iff _).2 (by omega)
  unfold State.fetch
  rw [this]

theorem State.execute_eq_next (s : State) : ∃ t, s.execute = .next t := by
  unfold State.execute
  split
  · exact ⟨_, rfl⟩
  · exact exec_eq_next _ _

theorem tickDown_toNat (b : Byte) : (tickDown b).toNat = b.toNat - 1 := by
  unfold tickDown
  split
  · simp_all
  · have : b.toNat ≠ 0 := fun e => ‹¬b = 0› (BitVec.eq_of_toNat_eq (by simpa using e))
    rw [BitVec.toNat_sub]
    simp
    omega

/-- Render and tick are skipped when the execute phase faulted (40_cycle_and_fetch.md R109). -/
theorem State.finish_of_faulted {t : State} (h : t.runState = .faulted) : t.finish = t := if_pos h

theorem State.finish_eq {t : State} (h : t.runState ≠ .faulted) : t.finish = t.render.tick := if_neg h

theorem State.render_eq (t : State) :
    t.render = { t with events := t.events ++ (if t.dirty then [.present t.fb] else []), dirty := false } := by
  unfold State.render
  split
  · rfl
  · cases t; simp_all

theorem State.tick_eq_of_tick {t : State} (h : t.inp.tick = true) :
    t.tick = { t with events := t.events ++ (if t.st = 1 then [.toneStop] else []), dt := tickDown t.dt,
                      st := tickDown t.st } := by
  unfold State.tick
  rw [if_pos h]
  split <;> simp [State.emit]

theorem State.tick_eq_of_not {t : State} (h : t.inp.tick = false) : t.tick = t := by simp [State.tick, h]

/-- A cycle halts on quit and otherwise executes and finishes (40_cycle_and_fetch.md R102, R103). -/
theorem State.cycle_eq_next {s t : State} {inp : CycleIn} (h : s.cycle inp = .next t) :
    (inp.quit = true ∧ t = s.halt) ∨
    (inp.quit = false ∧ ∃ u, (s.poll inp).execute = .next u ∧ t = u.finish) := by
  unfold State.cycle at h
  split at h
  · injection h with h
    exact .inl ⟨‹_›, h.symm⟩
  · obtain ⟨u, hu⟩ := (s.poll inp).execute_eq_next
    rw [hu] at h
    injection h with h
    exact .inr ⟨by simp_all, u, hu, h.symm⟩

theorem State.cycle_of_execute {s u : State} {inp : CycleIn} (hq : inp.quit = false)
    (hu : (s.poll inp).execute = .next u) : s.cycle inp = .next u.finish := by
  simp [State.cycle, hq, hu]

/-- A step makes the host's next move, or goes on with the free inputs, or stays (log 7, 20). -/
theorem step_eq_next {s t : State} (h : step s = .next t) :
    (∃ move rest, s.host = move :: rest ∧ State.hostMove { s with host := rest } move = .next t) ∨
    (s.host = [] ∧ s.runState = .running ∧
      State.cycle { s with draws := s.draws + 1 } (Config.freeInput s.draws) = .next t) ∨
    (s.host = [] ∧ s.runState ≠ .running ∧ t = s) := by
  unfold step State.stepOnce at h
  split at h
  · exact .inl ⟨_, _, ‹_›, h⟩
  · split at h
    · exact .inr (.inl ⟨‹_›, ‹_›, h⟩)
    · injection h with h
      exact .inr (.inr ⟨‹_›, ‹_›, h.symm⟩)

theorem step_of_move {s : State} {move : HostMove} {rest : List HostMove} (h : s.host = move :: rest) :
    step s = State.hostMove { s with host := rest } move := by
  simp only [step, State.stepOnce, h]

theorem step_of_cycle {s : State} {inp : CycleIn} {rest : List HostMove} (hr : s.runState = .running)
    (h : s.host = .cycle inp :: rest) : step s = State.cycle { s with host := rest } inp := by
  rw [step_of_move h]
  simp only [State.hostMove, State.cycleIfRunning, hr, if_true]

theorem step_past_host {s : State} (hr : s.runState = .running) (h : s.host = []) :
    step s = State.cycle { s with draws := s.draws + 1 } (Config.freeInput s.draws) := by
  simp only [step, State.stepOnce, h, hr, if_true]

end Sys2Proof.Machine
end

