-- ==== Sys2Proof/Laws/Display.lean ====
section
/-! SUPPORT. The laws of the display: toggling a cell, clearing, and the cells a sprite covers. -/

namespace Sys2Proof.Machine

theorem cellOf_clearGrid (p : Pixel) : cellOf clearGrid p = false := by
  simp [cellOf, clearGrid]

/-- Toggling a cell changes that cell and no other. -/
theorem cellOf_flipCell (g : Grid) (p q : Pixel) : cellOf (flipCell g p) q = (cellOf g q ^^ decide (q = p)) := by
  have hp := p.isLt
  have hq := q.isLt
  unfold cellOf flipCell
  simp only [Vector.getElem_set]
  by_cases hrow : p.val / 64 = q.val / 64
  · simp only [hrow, if_true, BitVec.getLsbD_xor, BitVec.getLsbD_twoPow]
    congr 1
    have hqp : q = p ↔ q.val % 64 = p.val % 64 := by rw [Fin.ext_iff]; omega
    by_cases hcol : q.val % 64 = p.val % 64
    · simp [hqp, hcol, Nat.mod_lt]
    · simp [hqp, hcol, Ne.symm hcol]
  · have hne : q ≠ p := fun h => hrow (by rw [h])
    simp [hrow, hne]

/-- A grid is its cells. -/
theorem grid_ext {g h : Grid} (hc : ∀ p, cellOf g p = cellOf h p) : g = h := by
  apply Vector.ext
  intro r hr
  apply BitVec.eq_of_getLsbD_eq
  intro c hcol
  have hlt : c + 64 * r < 2048 := by omega
  have h1 := hc ⟨c + 64 * r, hlt⟩
  have e1 : (c + 64 * r) / 64 = r := by omega
  have e2 : (c + 64 * r) % 64 = c := by omega
  simpa only [cellOf, e1, e2] using h1

/-- The display translator gives every cell of a row of 8 and of up to 32 rows its own index (44_display.md R193). -/
theorem cellIndex_inj {vx vy : Byte} {c c' r r' : Nat} (hc : c < 8) (hc' : c' < 8) (hr : r < 32) (hr' : r' < 32)
    (h : cellIndex vx vy c r = cellIndex vx vy c' r') : c = c' ∧ r = r' := by
  have := congrArg Fin.val h
  simp only [cellIndex] at this
  omega

theorem mem_rowCells {vx vy : Byte} {r : Nat} {b : Byte} {p : Pixel} :
    p ∈ rowCells vx vy r b ↔ ∃ c, c < 8 ∧ b.getLsbD (7 - c) = true ∧ p = cellIndex vx vy c r := by
  simp only [rowCells, List.mem_filterMap, List.mem_range]
  constructor
  · rintro ⟨c, hc, h⟩
    split at h
    · exact ⟨c, hc, ‹_›, by injection h with h; exact h.symm⟩
    · exact absurd h (by simp)
  · rintro ⟨c, hc, hb, rfl⟩
    exact ⟨c, hc, by simp [hb]⟩

/-- A cell is toggled by a sprite exactly when one of its bits that are 1 falls there (44_display.md R192). -/
theorem mem_spriteCells {vx vy : Byte} {r : Nat} {rows : List Byte} {p : Pixel} :
    p ∈ spriteCells vx vy r rows ↔
      ∃ (k : Nat) (hk : k < rows.length) (c : Nat), c < 8 ∧ (rows[k]).getLsbD (7 - c) = true ∧
        p = cellIndex vx vy c (r + k) := by
  induction rows generalizing r with
  | nil => simp [spriteCells]
  | cons b rows ih =>
    simp only [spriteCells, List.mem_append, mem_rowCells, ih]
    constructor
    · rintro (⟨c, hc, hb, rfl⟩ | ⟨k, hk, c, hc, hb, rfl⟩)
      · exact ⟨0, by simp, c, hc, hb, rfl⟩
      · exact ⟨k + 1, by simpa using hk, c, hc, by simpa using hb, by rw [show r + (k + 1) = r + 1 + k by omega]⟩
    · rintro ⟨k, hk, c, hc, hb, rfl⟩
      cases k with
      | zero => exact .inl ⟨c, hc, hb, rfl⟩
      | succ k =>
        exact .inr ⟨k, by simpa using hk, c, hc, by simpa using hb, by rw [show r + (k + 1) = r + 1 + k by omega]⟩

/-- Toggling a list of cells without repeats toggles the cells of the list and no other. -/
theorem cellOf_drawCells (g : Grid) (f : Bool) {ps : List Pixel} (hnd : ps.Nodup) (q : Pixel) :
    cellOf (drawCells g f ps).1 q = (cellOf g q ^^ decide (q ∈ ps)) := by
  induction ps generalizing g f with
  | nil => simp [drawCells]
  | cons p ps ih =>
    have hp := (List.nodup_cons.1 hnd).1
    rw [drawCells, ih _ _ (List.nodup_cons.1 hnd).2, cellOf_flipCell]
    by_cases h : q = p
    · subst h; simp [hp]
    · simp [h]

/-- The flag of a drawing without repeats: some cell of the list was set before. -/
theorem drawCells_flag (g : Grid) (f : Bool) {ps : List Pixel} (hnd : ps.Nodup) :
    (drawCells g f ps).2 = (f || ps.any fun p => cellOf g p) := by
  induction ps generalizing g f with
  | nil => simp [drawCells]
  | cons p ps ih =>
    have hp := (List.nodup_cons.1 hnd).1
    have hany : (ps.any fun q => cellOf (flipCell g p) q) = ps.any fun q => cellOf g q := by
      rw [Bool.eq_iff_iff, List.any_eq_true, List.any_eq_true]
      refine exists_congr fun q => and_congr_right fun hq => ?_
      rw [cellOf_flipCell]
      simp [show q ≠ p from fun e => hp (e ▸ hq)]
    rw [drawCells, ih _ _ (List.nodup_cons.1 hnd).2, hany, List.any_cons, Bool.or_assoc]

theorem nodup_rowCells (vx vy : Byte) {r : Nat} (hr : r < 32) (b : Byte) : (rowCells vx vy r b).Nodup := by
  unfold rowCells
  rw [List.nodup_iff_pairwise_ne, List.pairwise_filterMap]
  refine List.Pairwise.imp_of_mem ?_ (List.nodup_range (n := 8))
  intro c c' hc hc' hne p hp p' hp' e
  simp only [Option.ite_none_right_eq_some, Option.some.injEq] at hp hp'
  exact hne (cellIndex_inj (by simpa using hc) (by simpa using hc') hr hr (by rw [hp.2, hp'.2, e])).1

/-- No cell is visited twice by a sprite of at most 32 rows (44_display.md R193 (1)). -/
theorem nodup_spriteCells (vx vy : Byte) (r : Nat) (rows : List Byte) (h : r + rows.length ≤ 32) :
    (spriteCells vx vy r rows).Nodup := by
  induction rows generalizing r with
  | nil => simp [spriteCells]
  | cons b rows ih =>
    simp only [List.length_cons] at h
    simp only [spriteCells, List.nodup_append]
    refine ⟨nodup_rowCells _ _ (by omega) _, ih _ (by omega), fun p hp q hq e => ?_⟩
    subst e
    obtain ⟨c, hc, _, rfl⟩ := mem_rowCells.1 hp
    obtain ⟨k, hk, c', hc', _, e⟩ := mem_spriteCells.1 hq
    have := (cellIndex_inj hc hc' (by omega) (by omega) e).2
    omega

end Sys2Proof.Machine
end

