-- ==== Sys2Proof/Laws/Encoding.lean ====
section
/-! SUPPORT. The masks of the opcode table as arithmetic on the word (30_encoding.md R83, R84), and the fields of an
encoded word. -/

namespace Sys2Proof

/-- Mask 0xF000 keeps the family. -/
theorem mask_family (w : Word) : w &&& 0xF000 = BitVec.ofNat 16 (w.toNat / 0x1000 * 0x1000) := by
  apply BitVec.eq_of_getLsbD_eq
  intro i hi
  have hw := w.isLt
  rw [BitVec.getLsbD_and]
  interval_cases i <;>
    simp only [BitVec.getLsbD, BitVec.toNat_ofNat, Nat.testBit_eq_decide_div_mod_eq, Bool.and_eq_decide] <;>
    (congr 1; simp; try omega)

/-- Mask 0xF00F keeps the family and the low nibble. -/
theorem mask_lowNibble (w : Word) :
    w &&& 0xF00F = BitVec.ofNat 16 (w.toNat / 0x1000 * 0x1000 + w.toNat % 0x10) := by
  apply BitVec.eq_of_getLsbD_eq
  intro i hi
  have hw := w.isLt
  rw [BitVec.getLsbD_and]
  interval_cases i <;>
    simp only [BitVec.getLsbD, BitVec.toNat_ofNat, Nat.testBit_eq_decide_div_mod_eq, Bool.and_eq_decide] <;>
    (congr 1; simp; try omega)

/-- Mask 0xF0FF keeps the family and the low byte. -/
theorem mask_lowByte (w : Word) :
    w &&& 0xF0FF = BitVec.ofNat 16 (w.toNat / 0x1000 * 0x1000 + w.toNat % 0x100) := by
  apply BitVec.eq_of_getLsbD_eq
  intro i hi
  have hw := w.isLt
  rw [BitVec.getLsbD_and]
  interval_cases i <;>
    simp only [BitVec.getLsbD, BitVec.toNat_ofNat, Nat.testBit_eq_decide_div_mod_eq, Bool.and_eq_decide] <;>
    (congr 1; simp; try omega)

theorem fieldFamily_toNat (w : Word) : (fieldFamily w).toNat = w.toNat / 0x1000 := by
  have := w.isLt
  simp only [fieldFamily, BitVec.extractLsb'_toNat, Nat.shiftRight_eq_div_pow]
  omega

theorem fieldX_val (w : Word) : (fieldX w).val = w.toNat / 0x100 % 0x10 := by
  simp only [fieldX, BitVec.extractLsb'_toNat, Nat.shiftRight_eq_div_pow]

theorem fieldY_val (w : Word) : (fieldY w).val = w.toNat / 0x10 % 0x10 := by
  simp only [fieldY, BitVec.extractLsb'_toNat, Nat.shiftRight_eq_div_pow]

theorem fieldN_toNat (w : Word) : (fieldN w).toNat = w.toNat % 0x10 := by
  simp only [fieldN, BitVec.extractLsb'_toNat, Nat.shiftRight_eq_div_pow]
  omega

theorem fieldKk_toNat (w : Word) : (fieldKk w).toNat = w.toNat % 0x100 := by
  simp only [fieldKk, BitVec.extractLsb'_toNat, Nat.shiftRight_eq_div_pow]
  omega

theorem fieldNnn_toNat (w : Word) : (fieldNnn w).toNat = w.toNat % 0x1000 := by
  simp only [fieldNnn, BitVec.extractLsb'_toNat, Nat.shiftRight_eq_div_pow]
  omega

theorem fieldIgnored_toNat (w : Word) : (fieldIgnored w).toNat = w.toNat / 0x100 % 0x10 := by
  simp only [fieldIgnored, BitVec.extractLsb'_toNat, Nat.shiftRight_eq_div_pow]

theorem formatNNN_toNat {f : Nat} (hf : f < 16) (nnn : Addr12) :
    (formatNNN f nnn).toNat = f * 0x1000 + nnn.toNat := by
  have := nnn.isLt
  simp only [formatNNN, BitVec.toNat_ofNat]
  omega

theorem formatXKK_toNat {f : Nat} (hf : f < 16) (x : Reg) (kk : Byte) :
    (formatXKK f x kk).toNat = f * 0x1000 + x.val * 0x100 + kk.toNat := by
  have := x.isLt
  have := kk.isLt
  simp only [formatXKK, BitVec.toNat_ofNat]
  omega

theorem formatXYS_toNat {f sub : Nat} (hf : f < 16) (hs : sub < 16) (x y : Reg) :
    (formatXYS f x y sub).toNat = f * 0x1000 + x.val * 0x100 + y.val * 0x10 + sub := by
  have := x.isLt
  have := y.isLt
  simp only [formatXYS, BitVec.toNat_ofNat]
  omega

theorem formatXYN_toNat {f : Nat} (hf : f < 16) (x y : Reg) (n : Nibble) :
    (formatXYN f x y n).toNat = f * 0x1000 + x.val * 0x100 + y.val * 0x10 + n.toNat := by
  have := x.isLt
  have := y.isLt
  have := n.isLt
  simp only [formatXYN, BitVec.toNat_ofNat]
  omega

theorem formatXSS_toNat {f sub : Nat} (hf : f < 16) (hs : sub < 256) (x : Reg) :
    (formatXSS f x sub).toNat = f * 0x1000 + x.val * 0x100 + sub := by
  have := x.isLt
  simp only [formatXSS, BitVec.toNat_ofNat]
  omega

theorem format0SS_toNat {sub : Nat} (hs : sub < 256) (ign : Nibble) :
    (format0SS ign sub).toNat = ign.toNat * 0x100 + sub := by
  have := ign.isLt
  simp only [format0SS, BitVec.toNat_ofNat]
  omega

/-! The masked word of each format, which is the row's match value. -/

theorem formatNNN_row {f : Nat} (hf : f < 16) (nnn : Addr12) :
    formatNNN f nnn &&& 0xF000 = BitVec.ofNat 16 (f * 0x1000) := by
  have := nnn.isLt
  rw [mask_family, formatNNN_toNat hf]
  exact congrArg (BitVec.ofNat 16) (by omega)

theorem formatXKK_row {f : Nat} (hf : f < 16) (x : Reg) (kk : Byte) :
    formatXKK f x kk &&& 0xF000 = BitVec.ofNat 16 (f * 0x1000) := by
  have := x.isLt
  have := kk.isLt
  rw [mask_family, formatXKK_toNat hf]
  exact congrArg (BitVec.ofNat 16) (by omega)

theorem formatXYS_row {f sub : Nat} (hf : f < 16) (hs : sub < 16) (x y : Reg) :
    formatXYS f x y sub &&& 0xF00F = BitVec.ofNat 16 (f * 0x1000 + sub) := by
  have := x.isLt
  have := y.isLt
  rw [mask_lowNibble, formatXYS_toNat hf hs]
  exact congrArg (BitVec.ofNat 16) (by omega)

theorem formatXYN_row {f : Nat} (hf : f < 16) (x y : Reg) (n : Nibble) :
    formatXYN f x y n &&& 0xF000 = BitVec.ofNat 16 (f * 0x1000) := by
  have := x.isLt
  have := y.isLt
  have := n.isLt
  rw [mask_family, formatXYN_toNat hf]
  exact congrArg (BitVec.ofNat 16) (by omega)

theorem formatXSS_row {f sub : Nat} (hf : f < 16) (hs : sub < 256) (x : Reg) :
    formatXSS f x sub &&& 0xF0FF = BitVec.ofNat 16 (f * 0x1000 + sub) := by
  have := x.isLt
  rw [mask_lowByte, formatXSS_toNat hf hs]
  exact congrArg (BitVec.ofNat 16) (by omega)

theorem format0SS_row {sub : Nat} (hs : sub < 256) (ign : Nibble) :
    format0SS ign sub &&& 0xF0FF = BitVec.ofNat 16 sub := by
  have := ign.isLt
  rw [mask_lowByte, format0SS_toNat hs]
  exact congrArg (BitVec.ofNat 16) (by omega)

end Sys2Proof
end

