-- ==== Sys2Proof/Laws/Frame.lean ====
section
/-! SUPPORT. What the shared updates of the state leave unchanged, said once in the words of the statements: frames and
fault entry. -/

namespace Sys2Proof.Claims

open Sys2Proof.Machine

theorem Frame.mono {s t : State} {may may' : Part → Prop} (h : Frame s t may) (hm : ∀ p, may p → may' p) :
    Frame s t may' :=
  fun p hp => h p fun h' => hp (hm p h')

theorem Frame.refl (s : State) (may : Part → Prop) : Frame s s may := by
  intro p _
  cases p <;> first | rfl | exact ⟨rfl, rfl, rfl⟩

/-- A frame, part by part. -/
theorem Frame.intro {s t : State} {may : Part → Prop}
    (reg : ∀ r, ¬ may (.reg r) → t.reg r = s.reg r) (pc : ¬ may .pc → t.pc = s.pc) (i : ¬ may .i → t.i = s.i)
    (entry : ∀ j : Fin 16, ¬ may (.entry j) → t.stack[j] = s.stack[j]) (sp : ¬ may .sp → t.sp = s.sp)
    (dt : ¬ may .dt → t.dt = s.dt) (st : ¬ may .st → t.st = s.st)
    (byte : ∀ a, ¬ may (.byte a) → t.readByte a = s.readByte a)
    (cell : ∀ p, ¬ may (.cell p) → cellOf t.fb p = cellOf s.fb p) (dirty : ¬ may .dirty → t.dirty = s.dirty)
    (keys : ¬ may .keys → t.keys = s.keys) (runState : ¬ may .runState → t.runState = s.runState)
    (record : ¬ may .faultRecord →
      t.faultCause = s.faultCause ∧ t.faultAddr = s.faultAddr ∧ t.faultPc = s.faultPc)
    (cfg : ¬ may .cfg → t.cfg = s.cfg) (inp : ¬ may .inp → t.inp = s.inp) (host : ¬ may .host → t.host = s.host)
    (draws : ¬ may .draws → t.draws = s.draws) (events : ¬ may .events → t.events = s.events) : Frame s t may := by
  intro p hp
  cases p with
  | reg r => exact reg r hp
  | pc => exact pc hp
  | i => exact i hp
  | entry j => exact entry j hp
  | sp => exact sp hp
  | dt => exact dt hp
  | st => exact st hp
  | byte a => exact byte a hp
  | cell q => exact cell q hp
  | dirty => exact dirty hp
  | keys => exact keys hp
  | runState => exact runState hp
  | faultRecord => exact record hp
  | cfg => exact cfg hp
  | inp => exact inp hp
  | host => exact host hp
  | draws => exact draws hp
  | events => exact events hp

theorem frame_skipIf (s : State) (taken : Bool) : Frame s (s.skipIf taken) (· ∈ [Part.pc]) := by
  cases taken <;> (intro p hp; cases p <;> first | rfl | exact ⟨rfl, rfl, rfl⟩ | simp at hp)

theorem frame_advance_setReg (s : State) (x : Reg) (b : Byte) :
    Frame s (s.advance.setReg x b) (· ∈ [Part.reg x, .pc]) := by
  intro p hp
  cases p <;> first | rfl | exact ⟨rfl, rfl, rfl⟩ | skip
  · exact State.reg_setReg_other _ _ (by simpa using hp)
  · simp at hp

theorem frame_writeResultAndFlag (s : State) (x : Reg) (r : Byte) (f : Bool) :
    Frame s (s.advance.writeResultAndFlag x r f) (· ∈ [Part.reg x, .reg 15, .pc]) := by
  refine Frame.intro (fun y hy => ?_) (fun h => absurd (by simp) h) ?_ ?_ ?_ ?_ ?_
    (fun a _ => State.readByte_congr (by simp) (by simp) a) ?_ ?_ ?_ ?_ ?_ ?_ ?_ ?_ ?_ ?_ <;>
    first | (intros; simp) | skip
  have h : y ≠ x ∧ y ≠ 15 := by simpa using hy
  rw [State.reg_writeResultAndFlag, if_neg h.2, if_neg h.1]
  rfl

theorem frame_writeBytes (s : State) (a : Nat) (bs : List Byte) :
    Frame s (s.writeBytes a bs) (bytesFrom a bs.length) := by
  refine Frame.intro ?_ ?_ ?_ ?_ ?_ ?_ ?_ (fun c hc => State.readByte_writeBytes_other _ _ _ ?_) ?_ ?_ ?_ ?_ ?_ ?_ ?_
    ?_ ?_ ?_ <;> first | (intros; simp) | skip
  by_contra hcc
  exact hc ⟨c - a, by omega, by congr 1; omega⟩

/-- Fault entry by `takeFault` is the one the statements speak of (60_exceptions.md R226). -/
theorem faultEntry_takeFault (s : State) (c : FaultCause) {a : Nat} (ha : a < 2 ^ 17) :
    FaultEntry s c a (s.takeFault c a) := by
  refine ⟨rfl, rfl, ?_, rfl, ?_⟩
  · show (BitVec.ofNat 17 a).toNat = a
    rw [BitVec.toNat_ofNat, Nat.mod_eq_of_lt ha]
  · intro p hp
    cases p <;> first | rfl | exact ⟨rfl, rfl, rfl⟩ | simp at hp

end Sys2Proof.Claims
end

