-- ==== Sys2Proof/Laws/PerInstr.lean ====
section
/-! SUPPORT. Families of facts about every instruction as syntax, one lemma per constructor. -/

namespace Sys2Proof.Laws.EncodesToRow

/-- The encoded word, under the mask of the instruction's row of the opcode table, is the row's match value
(30_encoding.md R86). UNKNOWN has no row. -/
def Statement (i : Instr) : Prop := ∀ r, rowOf i = some r → encode i &&& r.2 = r.1

/-- A row found is the row the encoding meets. -/
theorem of_row {i : Instr} {m k : Word} (hr : rowOf i = some (m, k)) (he : encode i &&& k = m) : Statement i := by
  intro r h
  rw [hr] at h
  injection h with h
  subst h
  exact he

theorem cls (ign : Nibble) : Statement (.cls ign) := of_row rfl (format0SS_row (by decide) ign)
theorem ret (ign : Nibble) : Statement (.ret ign) := of_row rfl (format0SS_row (by decide) ign)
theorem jp (nnn : Addr12) : Statement (.jp nnn) := of_row rfl (formatNNN_row (by decide) nnn)
theorem call (nnn : Addr12) : Statement (.call nnn) := of_row rfl (formatNNN_row (by decide) nnn)
theorem seImm (x : Reg) (kk : Byte) : Statement (.seImm x kk) := of_row rfl (formatXKK_row (by decide) x kk)
theorem seReg (x : Reg) (y : Reg) : Statement (.seReg x y) := of_row rfl (formatXYS_row (by decide) (by decide) x y)
theorem sneImm (x : Reg) (kk : Byte) : Statement (.sneImm x kk) := of_row rfl (formatXKK_row (by decide) x kk)
theorem sneReg (x : Reg) (y : Reg) : Statement (.sneReg x y) := of_row rfl (formatXYS_row (by decide) (by decide) x y)
theorem ldImm (x : Reg) (kk : Byte) : Statement (.ldImm x kk) := of_row rfl (formatXKK_row (by decide) x kk)
theorem ldReg (x : Reg) (y : Reg) : Statement (.ldReg x y) := of_row rfl (formatXYS_row (by decide) (by decide) x y)
theorem addImm (x : Reg) (kk : Byte) : Statement (.addImm x kk) := of_row rfl (formatXKK_row (by decide) x kk)
theorem orReg (x : Reg) (y : Reg) : Statement (.orReg x y) := of_row rfl (formatXYS_row (by decide) (by decide) x y)
theorem andReg (x : Reg) (y : Reg) : Statement (.andReg x y) := of_row rfl (formatXYS_row (by decide) (by decide) x y)
theorem xorReg (x : Reg) (y : Reg) : Statement (.xorReg x y) := of_row rfl (formatXYS_row (by decide) (by decide) x y)
theorem addReg (x : Reg) (y : Reg) : Statement (.addReg x y) := of_row rfl (formatXYS_row (by decide) (by decide) x y)
theorem sub (x : Reg) (y : Reg) : Statement (.sub x y) := of_row rfl (formatXYS_row (by decide) (by decide) x y)
theorem subn (x : Reg) (y : Reg) : Statement (.subn x y) := of_row rfl (formatXYS_row (by decide) (by decide) x y)
theorem shr (x : Reg) (y : Reg) : Statement (.shr x y) := of_row rfl (formatXYS_row (by decide) (by decide) x y)
theorem shl (x : Reg) (y : Reg) : Statement (.shl x y) := of_row rfl (formatXYS_row (by decide) (by decide) x y)
theorem ldI (nnn : Addr12) : Statement (.ldI nnn) := of_row rfl (formatNNN_row (by decide) nnn)
theorem jpV0 (nnn : Addr12) : Statement (.jpV0 nnn) := of_row rfl (formatNNN_row (by decide) nnn)
theorem rnd (x : Reg) (kk : Byte) : Statement (.rnd x kk) := of_row rfl (formatXKK_row (by decide) x kk)
theorem drw (x : Reg) (y : Reg) (n : Nibble) : Statement (.drw x y n) := of_row rfl (formatXYN_row (by decide) x y n)
theorem skp (x : Reg) : Statement (.skp x) := of_row rfl (formatXSS_row (by decide) (by decide) x)
theorem sknp (x : Reg) : Statement (.sknp x) := of_row rfl (formatXSS_row (by decide) (by decide) x)
theorem ldVxDt (x : Reg) : Statement (.ldVxDt x) := of_row rfl (formatXSS_row (by decide) (by decide) x)
theorem ldDtVx (x : Reg) : Statement (.ldDtVx x) := of_row rfl (formatXSS_row (by decide) (by decide) x)
theorem ldStVx (x : Reg) : Statement (.ldStVx x) := of_row rfl (formatXSS_row (by decide) (by decide) x)
theorem ldVxK (x : Reg) : Statement (.ldVxK x) := of_row rfl (formatXSS_row (by decide) (by decide) x)
theorem addI (x : Reg) : Statement (.addI x) := of_row rfl (formatXSS_row (by decide) (by decide) x)
theorem ldF (x : Reg) : Statement (.ldF x) := of_row rfl (formatXSS_row (by decide) (by decide) x)
theorem ldB (x : Reg) : Statement (.ldB x) := of_row rfl (formatXSS_row (by decide) (by decide) x)
theorem storeRegs (x : Reg) : Statement (.storeRegs x) := of_row rfl (formatXSS_row (by decide) (by decide) x)
theorem loadRegs (x : Reg) : Statement (.loadRegs x) := of_row rfl (formatXSS_row (by decide) (by decide) x)
theorem unknown (w : Word) : Statement (.unknown w) := fun _ h => nomatch h

end Sys2Proof.Laws.EncodesToRow
end

