-- ==== Sys2Proof/Tests/Slice0.lean ====
section
/-! SUPPORT. Tests of the model against the spec: the smoke test of well-formedness, words written out from
30_encoding.md R86, vectors of 95_test_vectors.md (named V<n>, S<n>, P<n> there), and for each statement with hypotheses
a state and operands that meet them all. -/

namespace Sys2Proof.Tests

open Sys2Proof.Machine Sys2Proof.Claims

/-- A Running machine at 0x200 with these bytes there. -/
def placed (bytes : List Byte) : State := { State.reset.writeBytes 0x200 bytes with runState := .running }

/-- The inputs of a cycle with a tick, as the vectors take them. -/
def ticked : CycleIn := { CycleIn.quiet with tick := true }

/-- The host drives one cycle. -/
def withCycle (s : State) (inp : CycleIn) : State := { s with host := [.cycle inp] }

/-- The state after a meaning or a step. -/
def result (r : Res) : State :=
  match r with
  | .next t => t
  | _ => State.reset

/-- One cycle with a tick on a machine with one word at 0x200. -/
def ran (s : State) : State := result (step (withCycle s ticked))

/-- The machine with two general registers given. -/
def twoRegs (x : Reg) (a : Byte) (y : Reg) (b : Byte) : State := ((placed []).setReg x a).setReg y b

/-! ## Well-formedness: the one check refuses -/

theorem test_unknown_refuses_a_defined_word : Instr.wellFormed (.unknown 0x00E0) = false := by decide
theorem test_unknown_refuses_a_canonical_add : Instr.wellFormed (.unknown 0x8124) = false := by decide
theorem test_unknown_admits_the_unknown_space : Instr.wellFormed (.unknown 0x5001) = true := by decide

/-! ## Decoding: words written from the patterns of R86, family | x | y or kk | n -/

theorem test_decode_families_0_to_2 :
    decode 0b0000000011100000 = .cls 0 ∧ decode 0b0000000011101110 = .ret 0 ∧
    decode 0b0001101010111100 = .jp 0xABC ∧ decode 0b0010001100000000 = .call 0x300 := by decide

theorem test_decode_skips :
    decode 0b0011010001111111 = .seImm 4 0x7F ∧ decode 0b0101000100100000 = .seReg 1 2 ∧
    decode 0b0100010010000000 = .sneImm 4 0x80 ∧ decode 0b1001000100100000 = .sneReg 1 2 := by decide

theorem test_decode_loads_and_add :
    decode 0b0110101011001101 = .ldImm 0xA 0xCD ∧ decode 0b1000000100100000 = .ldReg 1 2 ∧
    decode 0b0111000011111111 = .addImm 0 0xFF := by decide

theorem test_decode_family_8 :
    decode 0b1000001000010001 = .orReg 2 1 ∧ decode 0b1000001000010010 = .andReg 2 1 ∧
    decode 0b1000001000010011 = .xorReg 2 1 ∧ decode 0b1000001000010100 = .addReg 2 1 ∧
    decode 0b1000001000010101 = .sub 2 1 ∧ decode 0b1000001000010111 = .subn 2 1 ∧
    decode 0b1000001000010110 = .shr 2 1 ∧ decode 0b1000001000011110 = .shl 2 1 := by decide

theorem test_decode_families_A_to_D :
    decode 0b1010001100000000 = .ldI 0x300 ∧ decode 0b1011111111111111 = .jpV0 0xFFF ∧
    decode 0b1100000000001111 = .rnd 0 0x0F ∧ decode 0b1101000100100101 = .drw 1 2 5 := by decide

theorem test_decode_family_E :
    decode 0b1110001110011110 = .skp 3 ∧ decode 0b1110001110100001 = .sknp 3 := by decide

theorem test_decode_family_F :
    decode 0b1111000100000111 = .ldVxDt 1 ∧ decode 0b1111000000010101 = .ldDtVx 0 ∧
    decode 0b1111000000011000 = .ldStVx 0 ∧ decode 0b1111001000001010 = .ldVxK 2 ∧
    decode 0b1111001000011110 = .addI 2 ∧ decode 0b1111000000101001 = .ldF 0 ∧
    decode 0b1111000000110011 = .ldB 0 ∧ decode 0b1111001001010101 = .storeRegs 2 ∧
    decode 0b1111001001100101 = .loadRegs 2 := by decide

/-- V2 to V9: the unknown space, and CLS with its ignored bits. -/
theorem test_decode_unknown_and_ignored :
    decode 0x5001 = .unknown 0x5001 ∧ decode 0x0000 = .unknown 0 ∧ decode 0x0123 = .unknown 0x0123 ∧
    decode 0x01E0 = .cls 1 ∧ decode 0x8128 = .unknown 0x8128 ∧ decode 0x9121 = .unknown 0x9121 ∧
    decode 0xE19F = .unknown 0xE19F ∧ decode 0xF1FF = .unknown 0xF1FF := by decide

/-- V1: the byte at the lower address is the high byte. -/
theorem test_decode_bytes_big_endian : decodeBytes [0x60, 0x05, 0xAA] = .ok (.ldImm 0 5, [0xAA]) := rfl
theorem test_decode_bytes_truncated : decodeBytes [0x60] = .error .truncated := rfl
theorem test_decode_table_word : decodeTableWord 16 0x8015 = some (.sub 0 1) := by decide

/-- 30_encoding.md R85: the count of words of the unknown space in two families (R88). -/
theorem test_unknown_count_family_9 :
    ((List.range 4096).filter fun n => unknownWord (BitVec.ofNat 16 (0x9000 + n))).length = 3840 := by decide +kernel

/-! ## Vectors: control flow -/

/-- V10 -/
theorem test_fetch_at_FFF :
    let t := ran { placed [] with pc := 0xFFF }
    t.runState = .faulted ∧ t.faultCause = .memRange ∧ t.faultAddr = 0x1000 ∧ t.faultPc = 0xFFF := by decide

/-- V12: an odd `pc` -/
theorem test_odd_pc : (ran { placed [0, 0x6A, 0x77] with pc := 0x201 }).reg 0xA = 0x77 := by decide

/-- V13 -/
theorem test_quit : (result (step (withCycle (placed [0x60, 0x05]) { ticked with quit := true }))).runState = .halted := by
  decide

/-- V16 -/
theorem test_call : let t := ran (placed [0x23, 0x00]); t.pc = 0x300 ∧ t.sp = 1 ∧ t.stack[0] = 0x202 := by decide

/-- V17 -/
theorem test_call_overflow :
    let t := ran { placed [0x23, 0x00] with sp := 16 }
    t.runState = .faulted ∧ t.faultCause = .stackOverflow ∧ t.faultPc = 0x200 ∧ t.sp = 16 ∧ t.pc = 0x200 := by decide

/-- V18 -/
theorem test_ret :
    let t := ran { placed [0x00, 0xEE] with sp := 1, stack := State.reset.stack.set 0 0x456 }
    t.sp = 0 ∧ t.pc = 0x456 := by decide

/-- V19, P6b -/
theorem test_ret_underflow :
    let t := ran (placed [0x00, 0xEE])
    t.runState = .faulted ∧ t.faultCause = .stackUnderflow ∧ t.faultPc = 0x200 ∧ t.pc = 0x200 := by decide

/-- V14, V20 to V29 -/
theorem test_jump : (ran (placed [0x1A, 0xBC])).pc = 0xABC := by decide
theorem test_se_imm : (ran ((placed [0x34, 0x7F]).setReg 4 0x7F)).pc = 0x204 ∧
    (ran ((placed [0x34, 0x80]).setReg 4 0x7F)).pc = 0x202 := by decide
theorem test_sne_imm : (ran ((placed [0x44, 0x7F]).setReg 4 0x7F)).pc = 0x202 ∧
    (ran ((placed [0x44, 0x80]).setReg 4 0x7F)).pc = 0x204 := by decide
theorem test_se_reg : (ran (placed [0x53, 0x30])).pc = 0x204 := by decide
theorem test_sne_reg : (result (execSneReg 1 2 (twoRegs 1 9 2 8))).pc = 0x204 ∧
    (result (execSneReg 1 2 (twoRegs 1 9 2 9))).pc = 0x202 := by decide
theorem test_jump_v0 : (ran ((placed [0xBF, 0xFF]).setReg 0 0xFF)).pc = 0x10FE := by decide

/-- 92_eei_decisions.md D3: a `pc` of 12 bits wraps silently, one of 13 bits does not (V28 with both widths). -/
def narrow (w : PcWidth) (bytes : List Byte) : State :=
  { placed bytes with cfg := { defaultConfig with pcWidth := w } }
theorem test_narrow_pc_wraps : (ran ((narrow ⟨12, by decide⟩ [0xBF, 0xFF]).setReg 0 0xFF)).pc = 0x0FE ∧
    (ran ((narrow ⟨13, by decide⟩ [0xBF, 0xFF]).setReg 0 0xFF)).pc = 0x10FE := by decide
/-- V11 with 12 bits: the word at 0xFFE is followed by the one at 0. -/
theorem test_narrow_pc_advance : (ran { narrow ⟨12, by decide⟩ [] with pc := 0xFFE }).pc = 0 ∧
    (ran { placed [] with pc := 0xFFE }).pc = 0x1000 := by decide

/-! ## Vectors: arithmetic -/

/-- V30, V31 -/
theorem test_ld_imm : (ran (placed [0x6A, 0xCD])).reg 0xA = 0xCD := by decide
theorem test_ld_reg : (ran ((placed [0x81, 0x20]).setReg 2 0x9A)).reg 1 = 0x9A := by decide

/-- V32 -/
theorem test_add_imm : let t := ran ((placed [0x70, 0x02]).setReg 0 0xFF); t.reg 0 = 1 ∧ t.reg 15 = 0 := by decide

/-- V34 to V36 -/
theorem test_or_keeps_flag :
    let t := result (execOrReg 0 1 ((twoRegs 0 0xF0 1 0x0F).setReg 15 1)); t.reg 0 = 0xFF ∧ t.reg 15 = 1 := by decide
theorem test_and : (result (execAndReg 0 1 (twoRegs 0 0xF0 1 0x3C))).reg 0 = 0x30 := by decide
theorem test_xor : (result (execXorReg 0 1 (twoRegs 0 0xF0 1 0x3C))).reg 0 = 0xCC := by decide

/-- V38, V39 -/
theorem test_add_carry :
    let t := result (execAddReg 0 1 (twoRegs 0 0xFF 1 0xFF)); t.reg 0 = 0xFE ∧ t.reg 15 = 1 := by decide
theorem test_add_same : let t := result (execAddReg 0 0 (twoRegs 0 0x80 1 0)); t.reg 0 = 0 ∧ t.reg 15 = 1 := by decide

/-- V41, V42 -/
theorem test_sub_equal :
    let t := result (execSub 0 1 (twoRegs 0 5 1 5)); t.reg 0 = 0 ∧ t.reg 15 = 0 := by decide
theorem test_sub_borrow :
    let t := result (execSub 0 1 (twoRegs 0 0 1 1)); t.reg 0 = 0xFF ∧ t.reg 15 = 0 := by decide

/-- V43, V44 -/
theorem test_subn : let t := result (execSubn 0 1 (twoRegs 0 3 1 5)); t.reg 0 = 2 ∧ t.reg 15 = 1 := by decide
theorem test_subn_borrow : let t := result (execSubn 0 1 (twoRegs 0 5 1 3)); t.reg 0 = 0xFE ∧ t.reg 15 = 0 := by decide

/-- V46, V48: `V1` is ignored -/
theorem test_shr : let t := result (execShr 0 1 (twoRegs 0 4 1 0xFF)); t.reg 0 = 2 ∧ t.reg 15 = 0 := by decide
theorem test_shl : let t := result (execShl 0 1 (twoRegs 0 0x40 1 0xFF)); t.reg 0 = 0x80 ∧ t.reg 15 = 0 := by decide

/-- V50, V51, V52: VF as destination under both priorities, and as second operand -/
theorem test_add_into_flag : (result (execAddReg 15 1 (twoRegs 15 0xFF 1 1))).reg 15 = 1 ∧
    (result (execAddReg 15 1
      { twoRegs 15 0xFF 1 1 with cfg := { defaultConfig with vfPriority := .result } })).reg 15 = 0 := by decide
theorem test_shr_into_flag : (result (execShr 15 0 (twoRegs 15 6 1 0))).reg 15 = 0 ∧
    (result (execShr 15 0
      { twoRegs 15 6 1 0 with cfg := { defaultConfig with vfPriority := .result } })).reg 15 = 3 := by decide
theorem test_sub_from_flag : let t := result (execSub 0 15 (twoRegs 0 9 15 5)); t.reg 0 = 4 ∧ t.reg 15 = 1 := by decide

/-- V53, V54 -/
theorem test_rnd : (result (execRnd 0 0x0F { placed [] with inp := { ticked with rnd := 0xA7 } })).reg 0 = 7 ∧
    (result (execRnd 0 0 { placed [] with inp := { ticked with rnd := 0xA7 } })).reg 0 = 0 := by decide

/-! ## Vectors: address register, BCD, block transfers -/

/-- V56 -/
theorem test_ld_i : (ran (placed [0xAF, 0xFF])).i = 0xFFF := by decide

/-- V58: every setting -/
theorem test_add_i : let t := result (execAddI 0 { (placed []).setReg 0 1 with i := 0xFFF }); t.i = 0 ∧ t.reg 15 = 0 := by
  decide
theorem test_add_i_open :
    let t := result (execAddI 0
      { (placed []).setReg 0 1 with i := 0xFFF, cfg := { defaultConfig with addiMask12 := false, addiVf := true } })
    t.i = 0x1000 ∧ t.reg 15 = 1 := by decide

/-- V60, V61 -/
theorem test_ld_f : (result (execLdF 0 (twoRegs 0 0xA 1 0))).i = 0x32 ∧
    (result (execLdF 0 (twoRegs 0 0xFF 1 0))).i = 0x4FB := by decide

/-- V62, V64 -/
theorem test_bcd :
    let t := result (execLdB 0 { (placed []).setReg 0 0xFE with i := 0x300 })
    t.readByte 0x300 = 2 ∧ t.readByte 0x301 = 5 ∧ t.readByte 0x302 = 4 := by decide

/-- V65 -/
theorem test_bcd_fault :
    let t := result (execLdB 0 { (placed []).setReg 0 1 with i := 0xFFE })
    t.faultCause = .memRange ∧ t.faultAddr = 0x1000 ∧ t.readByte 0xFFE = 0 := by decide

/-- V66 -/
def threeRegs : State := { (twoRegs 0 0x11 1 0x22).setReg 2 0x33 with i := 0x400 }
theorem test_store :
    let t := result (execStoreRegs 2 threeRegs)
    t.readByte 0x400 = 0x11 ∧ t.readByte 0x401 = 0x22 ∧ t.readByte 0x402 = 0x33 ∧ t.i = 0x400 ∧
    (result (execStoreRegs 2 { threeRegs with cfg := { defaultConfig with ldstAdvanceI := true } })).i = 0x403 := by
  decide

/-- V67: both settings of RESERVED_WRITE -/
theorem test_store_reserved :
    let t := result (execStoreRegs 2 { threeRegs with i := 0x1FE })
    t.faultCause = .memReserved ∧ t.faultAddr = 0x1FE ∧ t.readByte 0x200 = 0 ∧
    (result (execStoreRegs 2
      { threeRegs with i := 0x1FE, cfg := { defaultConfig with reservedWrite := .perform } })).readByte 0x1FE = 0x11 := by
  decide

/-- V70: reads of the font -/
theorem test_load_font :
    let t := result (execLoadRegs 4 (placed []))
    t.reg 0 = 0xF0 ∧ t.reg 1 = 0x90 ∧ t.reg 2 = 0x90 ∧ t.reg 3 = 0x90 ∧ t.reg 4 = 0xF0 := by decide

/-- V71 -/
theorem test_load_fault :
    let t := result (execLoadRegs 15 { placed [] with i := 0xFF8 })
    t.faultCause = .memRange ∧ t.faultAddr = 0x1000 := by decide

/-! ## Vectors: display -/

/-- V40 -/
def spriteState : State :=
  { (placed [0xD0, 0x11, 0, 0, 0, 0, 0, 0, 0xFF]).setReg 0 60 with i := 0x208 }
theorem test_draw_wraps :
    let t := ran spriteState
    cellOf t.fb 60 = true ∧ cellOf t.fb 63 = true ∧ cellOf t.fb 0 = true ∧ cellOf t.fb 3 = true ∧
    cellOf t.fb 4 = false ∧ cellOf t.fb 59 = false ∧ cellOf t.fb 64 = false ∧ t.reg 15 = 0 ∧ t.dirty = false := by decide

/-- V73: drawn again -/
theorem test_draw_again :
    let t := result (execDrw 0 1 1 (result (execDrw 0 1 1 spriteState)))
    t.fb = State.reset.fb ∧ t.reg 15 = 1 := by decide

/-- V77 -/
theorem test_draw_fault :
    let t := result (execDrw 0 1 5 { placed [] with i := 0xFFC })
    t.runState = .faulted ∧ t.faultCause = .memRange ∧ t.faultAddr = 0x1000 ∧ t.dirty = false := by decide

/-- V79 -/
theorem test_cls :
    let t := ran { placed [0x00, 0xE0] with fb := flipCell State.reset.fb 77 }
    t.fb = State.reset.fb ∧ t.events = [.present State.reset.fb] := by decide

/-! ## Vectors: keys, timers, events -/

/-- V80, V84 -/
theorem test_skp : (result (execSkp 3 { (placed []).setReg 3 5 with keys := 0x20 })).pc = 0x204 ∧
    (result (execSkp 0 { (placed []).setReg 0 0x15 with keys := 0xFFFF })).pc = 0x202 := by decide

/-- V82, V85 -/
theorem test_sknp : (result (execSknp 3 { (placed []).setReg 3 5 with keys := 0x20 })).pc = 0x202 ∧
    (result (execSknp 0 { (placed []).setReg 0 0x15 with keys := 0xFFFF })).pc = 0x204 := by decide

/-- V86 -/
theorem test_ld_vx_dt : let t := ran { placed [0xF1, 0x07] with dt := 0x2A }; t.reg 1 = 0x2A ∧ t.dt = 0x29 := by decide

/-- V87 -/
theorem test_ld_dt_vx : (ran ((placed [0xF0, 0x15]).setReg 0 3)).dt = 2 := by decide

/-- V89, V91 -/
theorem test_ld_st_vx : let t := ran ((placed [0xF0, 0x18]).setReg 0 1); t.st = 0 ∧ t.events = [.toneStop] := by decide
theorem test_silence : let t := ran { placed [0xF0, 0x18] with st := 5 }; t.st = 0 ∧ t.events = [] := by decide

/-- V92 -/
theorem test_key_wait : let t := ran { placed [0xF2, 0x0A] with dt := 9 }; t.pc = 0x200 ∧ t.dt = 8 := by decide

/-- V94 -/
theorem test_key_read : let t := result (execLdVxK 2 { placed [] with keys := 0x8002 }); t.reg 2 = 1 ∧ t.pc = 0x202 := by
  decide

/-- V2, S12 -/
theorem test_unknown : let t := ran (placed [0x50, 0x01]); t.pc = 0x202 ∧ t.events = [.unknown 0x5001 0x200] := by decide

/-- 70_reset_and_hazards.md R264: an empty ROM is allowed; a load outside Idle does nothing. -/
theorem test_load_outside_idle :
    (result (step { placed [] with host := [.load [0xAA]] })).readByte 0x200 = 0 := by decide

/-! ## The hypotheses of the statements are met -/

theorem witness_DecodeUndoesEncode : (Instr.unknown 0xFFFF).wellFormed = true ∧ (Instr.drw 15 15 15).wellFormed = true := by
  decide
theorem witness_DecodeSelectsTheMatchingRow :
    rowOf (.cls 0) = some (0x00E0, 0xF0FF) ∧ (0x0FE0 : Word) &&& 0xF0FF = 0x00E0 ∧
    rowOf (decode 0x0FE0) = some (0x00E0, 0xF0FF) ∧ rowOf (decode 0x0FE1) = none := by decide

theorem witness_ReturnPopsTheStack : ({ placed [] with sp := 1 } : State).sp.val = (0 : Fin 16).val + 1 ∧
    ({ placed [] with sp := 16 } : State).sp.val = (15 : Fin 16).val + 1 ∧ (placed []).sp = 0 := by decide
theorem witness_CallPushesTheNextAddress : (placed []).sp.val = (0 : Fin 16).val ∧
    ({ placed [] with sp := 15 } : State).sp.val = (15 : Fin 16).val ∧
    ({ placed [] with sp := 16 } : State).sp.val = 16 := by decide
theorem witness_ReturnComesBackAfterTheCall :
    ∃ (s t u : State) (j : Fin 16), s.sp.val = j.val ∧ exec (.call 0x300) s = .next t ∧ u.sp = t.sp ∧
      u.stack[j] = t.stack[j] ∧ u.pc ≠ t.pc :=
  ⟨placed [], (placed []).pushCall 0x300, ((placed []).pushCall 0x300).setPc 0x310, 0, rfl, rfl, rfl, rfl, by decide⟩

theorem witness_RegisterSkips : (decode (BitVec.ofNat 16 (0x5000 + 1)) = .unknown 0x5001) ∧
    (decode (BitVec.ofNat 16 (0x9000 + 15 * 0x100 + 15 * 0x10 + 15)) = .unknown 0x9FFF) := by decide
theorem witness_ImmediateSkips : (twoRegs 4 0x7F 1 0).reg 4 = 0x7F ∧ (twoRegs 4 0x7F 1 0).reg 4 ≠ 0x80 := by decide

/-- The three clauses of `ResultAndFlag`. -/
theorem witness_ResultAndFlag : (14 : Reg) ≠ 15 ∧ defaultConfig.vfPriority = .flag ∧
    ({ defaultConfig with vfPriority := .result } : Config).vfPriority = .result := by decide
theorem witness_AddToIndex : ({ defaultConfig with addiVf := true } : Config).addiVf = true := rfl

/-- The last three bytes of memory, and the first three of program space, take a store. -/
theorem witness_DecimalDigitsAreStored : (placed []).memWf ∧
    (∀ k, k < 3 → ¬ storeBad (placed []).cfg (0xFFD + k)) ∧ (∀ k, k < 3 → ¬ storeBad (placed []).cfg (0x200 + k)) :=
  ⟨rfl, fun k hk => by simp only [storeBad]; omega, fun k hk => by simp only [storeBad]; omega⟩
theorem witness_store_faults : LowestBad (storeBad defaultConfig) 0xFFE 3 0x1000 ∧
    LowestBad (storeBad defaultConfig) 0x1FF 3 0x1FF :=
  ⟨⟨by decide, by decide, .inl (by decide), fun k h1 h2 => by simp only [storeBad]; omega⟩,
    by decide, by decide, .inr ⟨by decide, rfl⟩, fun k h1 h2 => by omega⟩
theorem witness_RegistersAreStored : threeRegs.memWf ∧
    ∀ k, k ≤ (2 : Reg).val → ¬ storeBad threeRegs.cfg (threeRegs.i.toNat + k) :=
  ⟨rfl, fun k hk => by
    have h1 : threeRegs.i.toNat = 0x400 := rfl
    have h2 : (2 : Reg).val = 2 := rfl
    rw [h1]; simp only [storeBad]; omega⟩
theorem witness_RegistersAreLoaded : (∀ k, k ≤ (15 : Reg).val → ¬ readBad (0xFF0 + k)) ∧
    LowestBad readBad 0xFF8 16 0x1000 ∧ LowestBad readBad 0xFFFF 16 0xFFFF :=
  ⟨fun k hk => by have h : (15 : Reg).val = 15 := rfl; simp only [readBad]; omega,
    ⟨by decide, by decide, by unfold readBad; decide, fun k h1 h2 => by simp only [readBad]; omega⟩,
    ⟨by decide, by decide, by unfold readBad; decide, fun k h1 h2 => by omega⟩⟩
theorem witness_StoredRegistersLoadBack :
    ∃ t u : State, exec (.storeRegs 2) threeRegs = .next t ∧ u.i = threeRegs.i ∧ u.reg 0 ≠ threeRegs.reg 0 ∧
      ∀ k, k ≤ (2 : Reg).val → u.readByte (threeRegs.i.toNat + k) = t.readByte (threeRegs.i.toNat + k) :=
  ⟨_, (result (exec (.storeRegs 2) threeRegs)).setReg 0 0xFF, rfl, rfl, by decide, fun _ _ => rfl⟩
theorem witness_StoreIsSeenByTheNextFetch :
    ∃ s t : State, s.memWf ∧ s.runState = .running ∧ exec (.storeRegs 2) s = .next t ∧ t.runState = .running ∧
      t.pc.toNat = s.i.toNat + (1 : Reg).val :=
  ⟨{ threeRegs with i := 0x201 }, _, rfl, rfl, rfl, rfl, rfl⟩

theorem witness_DrawIsExclusiveOrWithCollision :
    (∀ k, k < (1 : Nibble).toNat → ¬ readBad (spriteState.i.toNat + k)) ∧ spriteCovers spriteState 0 1 1 3 ∧
    LowestBad readBad 0xFFC 5 0x1000 :=
  ⟨fun k hk => by
      have h1 : spriteState.i.toNat = 0x208 := rfl
      have h2 : (1 : Nibble).toNat = 1 := rfl
      rw [h1]; simp only [readBad]; omega,
    ⟨0, 7, by decide, by decide, by decide, by decide⟩,
    ⟨by decide, by decide, by unfold readBad; decide, fun k h1 h2 => by simp only [readBad]; omega⟩⟩
/-- The collision clause: the cell at column 3 is set before. -/
theorem witness_draw_collides :
    spriteCovers { spriteState with fb := flipCell clearGrid 3 } 0 1 1 3 ∧ cellOf (flipCell clearGrid 3) 3 = true :=
  ⟨⟨0, 7, by decide, by decide, by decide, by decide⟩, by decide⟩
theorem witness_DrawingTwiceRestoresTheDisplay :
    ∃ t u : State, exec (.drw 0 1 1) spriteState = .next t ∧ u.fb = t.fb ∧ u.i = spriteState.i ∧
      u.readByte 0x208 = spriteState.readByte 0x208 ∧ u.reg 0 = spriteState.reg 0 ∧ u.reg 1 = spriteState.reg 1 ∧
      cellOf spriteState.fb 3 = false :=
  ⟨_, result (exec (.drw 0 1 1) spriteState), rfl, rfl, rfl, rfl, rfl, rfl, by decide⟩

/-- R192 on a display already set under the sprite: the first draw clears the cell and collides, the second sets it and
does not (log 23). -/
theorem test_draw_twice_on_a_set_cell :
    let t := result (exec (.drw 0 1 1) { placed [0xD0, 0x11, 0x80] with fb := flipCell clearGrid 0, i := 0x202 })
    t.reg 15 = 1 ∧ (result (exec (.drw 0 1 1) t)).reg 15 = 0 := by decide

theorem witness_KeySkips : pressed { placed [] with keys := 0x8000 } 15 ∧ ¬ pressed { placed [] with keys := 0xFFFF } 16 :=
  ⟨⟨by decide, by decide⟩, fun h => absurd h.1 (by decide)⟩
theorem witness_KeyWait : (∀ k, k < 16 → (placed []).keys.getLsbD k = false) ∧
    (∃ k, k < 16 ∧ (0x8000 : Word).getLsbD k = true) ∧ (placed []).cfg.keySelect = [] :=
  ⟨by decide, ⟨15, by decide, by decide⟩, rfl⟩
theorem witness_UnknownOnlyEmitsItsEvent : unknownWord 0x0000 = true := by decide

/-- A machine about to run LD V0,0x05 in a cycle with a tick. -/
def ready : State := withCycle (placed [0x60, 0x05]) ticked

theorem witness_StepRunsTheDecodedInstruction : ready.runState = .running ∧ ready.pc.toNat ≤ 0xFFE ∧
    (Instr.ldImm 0 5).wellFormed = true ∧
    decodeBytes [ready.readByte ready.pc.toNat, ready.readByte (ready.pc.toNat + 1)] = .ok (.ldImm 0 5, []) ∧
    ready.host = .cycle ticked :: [] ∧ ticked.quit = false := ⟨rfl, by decide, rfl, rfl, rfl, rfl⟩
/-- Past the end of the host's list, at the last address a word can be fetched from. -/
theorem witness_step_past_host :
    let s : State := { placed [] with pc := 0xFFE }
    s.runState = .running ∧ s.pc.toNat ≤ 0xFFE ∧ (Instr.unknown 0).wellFormed = true ∧
    decodeBytes [s.readByte s.pc.toNat, s.readByte (s.pc.toNat + 1)] = .ok (.unknown 0, []) ∧ s.host = [] :=
  ⟨rfl, by decide, rfl, rfl, rfl⟩
theorem witness_CycleRendersThenTicks : ready.runState = .running ∧ ready.host = .cycle ticked :: [] ∧
    ticked.quit = false ∧ ∃ t, (polled ready ticked []).execute = .next t ∧ t.runState ≠ .faulted :=
  ⟨rfl, rfl, rfl, _, rfl, by decide⟩
theorem witness_QuitOnlyHalts :
    let s := withCycle (placed []) { ticked with quit := true }
    s.runState = .running ∧ s.host = .cycle { ticked with quit := true } :: [] ∧
      ({ ticked with quit := true } : CycleIn).quit = true := ⟨rfl, rfl, rfl⟩
theorem witness_FetchAboveMemoryFaults : ready.runState = .running ∧ ready.host = .cycle ticked :: [] ∧
    ticked.quit = false ∧ ({ ready with pc := 0xFFF } : State).pc.toNat > 0xFFE ∧
    ({ ready with pc := 0x10FE } : State).pc.toNat > 0xFFF := ⟨rfl, rfl, rfl, by decide, by decide⟩
theorem witness_FaultingCycleIsPrecise :
    let s : State := { ready with pc := 0x1000 }
    s.runState = .running ∧ s.host = .cycle ticked :: [] ∧ ∃ t, step s = .next t ∧ t.runState = .faulted :=
  ⟨rfl, rfl, _, rfl, by decide⟩
theorem witness_HandlersRaiseOnlyTheirCauses : (placed []).runState = .running ∧
    ∃ t, exec (.ret 0) (placed []) = .next t ∧ t.runState ≠ .running := ⟨rfl, _, rfl, by decide⟩
theorem witness_InstructionsWriteOnlyTheirRow : threeRegs.runState = .running ∧
    ∃ t, exec (.storeRegs 2) threeRegs = .next t ∧ t.runState = .running := ⟨rfl, _, rfl, by decide⟩
theorem witness_FlagIsZeroOrOne :
    let s := twoRegs 15 0xFF 1 1
    s.runState = .running ∧ writesFlag s.cfg (.addReg 15 1) ∧
      ∃ t, exec (.addReg 15 1) s = .next t ∧ t.runState = .running := ⟨rfl, .inr rfl, _, rfl, by decide⟩
theorem witness_UnreadPartsDoNotMatter : (placed []).memWf ∧ Frame (placed []) { placed [] with st := 7, draws := 3 } unread ∧
    ∃ t, exec (.ldVxDt 0) (placed []) = .next t := by
  refine ⟨rfl, fun p hp => ?_, _, rfl⟩
  cases p <;> first | rfl | simp [unread] at hp

/-- One step for each clause of the transitions. -/
theorem witness_RunStateTransitions :
    (result (step { placed [] with host := [.reset] })).runState = .idle ∧
    (result (step { State.reset with host := [.start] })).runState = .running ∧
    (result (step (withCycle (placed []) { ticked with quit := true }))).runState = .halted ∧
    (result (step { ready with pc := 0x1000 })).runState = .faulted := by decide
theorem witness_load_fault_transition : 3584 < (List.replicate 3585 (0 : Byte)).length := by
  rw [List.length_replicate]; decide
theorem witness_NothingChangesOutsideRunning :
    let s : State := { placed [] with runState := .halted, host := [.start] }
    s.runState ≠ .running ∧ s.host.head? ≠ some .reset ∧ s.runState ≠ .idle := by decide
theorem witness_idle_cycle_ignored :
    let s : State := { State.reset with host := [.cycle ticked] }
    s.runState = .idle ∧ s.host.head? ≠ some .reset ∧ s.host.head? ≠ some .start ∧
      ∀ rom, s.host.head? ≠ some (.load rom) := by
  refine ⟨rfl, by decide, by decide, fun rom h => ?_⟩
  injection h with h
  injection h
theorem witness_PresentExactlyAfterDrawing :
    let s := withCycle (placed [0x00, 0xE0]) ticked
    s.runState = .running ∧ s.host = .cycle ticked :: [] ∧ ticked.quit = false ∧ s.pc.toNat ≤ 0xFFE ∧
      s.dirty = false ∧ decode (wordAtPc s) = .cls 0 ∧ ∃ t, step s = .next t ∧ t.runState = .running :=
  ⟨rfl, rfl, rfl, by decide, rfl, by decide, _, rfl, by decide⟩
theorem witness_ToneRisesOnlyByLoadingSt :
    let s := withCycle ((placed [0xF0, 0x18]).setReg 0 2) ticked
    s.tone = false ∧ (result (step s)).tone = true := by decide
theorem witness_TimerWrittenInATickedCycle :
    let s := withCycle ((placed [0xF0, 0x15]).setReg 0 2) ticked
    let s' := withCycle ((placed [0xF0, 0x18]).setReg 0 1) ticked
    (s.runState = .running ∧ s.dirty = false ∧ s.host = [.cycle ticked] ∧ ticked.quit = false ∧ ticked.tick = true ∧
      s.pc.toNat ≤ 0xFFE ∧ decode (wordAtPc s) = .ldDtVx 0) ∧
    (s'.runState = .running ∧ s'.dirty = false ∧ s'.host = [.cycle ticked] ∧ s'.pc.toNat ≤ 0xFFE ∧
      decode (wordAtPc s') = .ldStVx 0 ∧ s'.reg 0 = 1) := by decide

theorem witness_HostResetGivesResetValues : ({ ready with host := [.reset] } : State).host = .reset :: [] := rfl
theorem witness_LoadPortWritesTheRom :
    let s : State := { State.reset with host := [.load (List.replicate 3584 0xAA)] }
    s.host = .load (List.replicate 3584 0xAA) :: [] ∧ s.memWf ∧ (List.replicate 3584 (0xAA : Byte)).length ≤ 3584 ∧
      s.runState = .idle := ⟨rfl, rfl, by rw [List.length_replicate], rfl⟩
theorem witness_LoadPortFaultsOnALongRom :
    let s : State := { State.reset with host := [.load (List.replicate 3585 0xAA)] }
    s.host = .load (List.replicate 3585 0xAA) :: [] ∧ s.memWf ∧ 3584 < (List.replicate 3585 (0xAA : Byte)).length ∧
      s.runState = .idle := ⟨rfl, rfl, by rw [List.length_replicate]; decide, rfl⟩
theorem witness_StartRunsOnlyFromIdle : ({ State.reset with host := [.start] } : State).runState = .idle ∧
    ({ placed [] with host := [.start] } : State).runState = .running := by decide
theorem witness_LaunchState : ([] : List Byte).length ≤ 3584 ∧ ([0x60, 0x05] : List Byte).length ≤ 3584 := by decide

/-- The invariant of a state that has done something: a value in memory, a computed jump past memory, a fault
recorded. -/
def faultedState : State :=
  { State.reset with
    mem := [(0x300, 7)], pc := 0x10FE, runState := .faulted, faultCause := .memRange, faultAddr := 0x10FE,
    faultPc := 0x10FE }
theorem witness_StepKeepsTheInvariant : Inv faultedState ∧ step faultedState = .next faultedState := by
  refine ⟨⟨rfl, rfl, by decide, by decide, by decide, by decide, by decide, fun _ a ha => ?_, by decide, by decide,
    by decide⟩, rfl⟩
  have h : a ≠ 0x300 := by simp only [reservedEnd] at ha; omega
  simp [faultedState, State.readByte, Memory.get, h]
/-- The narrowest of the wide counters, at the last address a word can be fetched from. -/
theorem witness_WideCountersAreAlike :
    let s : State := { narrow ⟨13, by decide⟩ [] with pc := 0xFFE }
    13 ≤ s.cfg.pcWidth.val ∧ s.pc.toNat ≤ 0xFFE ∧ 13 ≤ (⟨16, by decide⟩ : PcWidth).val := by decide
theorem witness_wide_step :
    step (withCycle (narrow ⟨13, by decide⟩ []) ticked) = .next (ran (narrow ⟨13, by decide⟩ [])) := rfl
/-- LD DT,V0 with V0 at 1 and at 0, then a cycle that leaves `DT` alone with `DT` at 1 and at 0. -/
theorem witness_DelayTimerCountsDownToZero : CycleIn.quiet.quit = false ∧ ticked.quit = false ∧
    (placed [0xF0, 0x15]).fetch = .ok 0xF015 ∧ decode 0xF015 = .ldDtVx 0 ∧
    (placed [0x60, 0x05]).fetch = .ok 0x6005 ∧ decode 0x6005 ≠ .ldDtVx 0 := by decide
theorem witness_delay_timer_cycle :
    (∃ t, ((placed [0xF0, 0x15]).setReg 0 1).cycle ticked = .next t ∧ t.runState ≠ .faulted ∧ t.dt = 0) ∧
    (∃ t, (placed [0xF0, 0x15]).cycle ticked = .next t ∧ t.runState ≠ .faulted ∧ t.dt = 0) ∧
    (∃ t, ((placed [0x60, 0x05]).setDt 1).cycle ticked = .next t ∧ t.runState ≠ .faulted ∧ t.dt = 0) ∧
    (∃ t, (placed [0x60, 0x05]).cycle ticked = .next t ∧ t.runState ≠ .faulted ∧ t.dt = 0) :=
  ⟨⟨_, rfl, by decide, by decide⟩, ⟨_, rfl, by decide, by decide⟩, ⟨_, rfl, by decide, by decide⟩,
    ⟨_, rfl, by decide, by decide⟩⟩
/-- A key goes up and another goes down between two polls. -/
theorem witness_PollReplacesTheKeySet :
    let s : State := { placed [0x60, 0x05] with keys := 0x8000 }
    let inp : CycleIn := { CycleIn.quiet with keys := 0x0001 }
    inp.quit = false ∧ s.fetch = .ok 0x6005 ∧
      ∃ u, exec (.ldImm 0 5) (s.poll inp) = .next u ∧ u.runState ≠ .faulted ∧ u.finish.keys = 0x0001 :=
  ⟨rfl, by decide, _, rfl, by decide, by decide⟩
theorem witness_CanonicalMemoriesThatReadAlikeAreEqual :
    Memory.wf (resetByte defaultConfig) [(0x300, 7), (0x301, 1)] = true ∧
    Memory.wf (resetByte defaultConfig) [(0x301, 1), (0x300, 7)] = false ∧
    Memory.wf (resetByte defaultConfig) [(0x300, 0)] = false := by decide

end Sys2Proof.Tests
end

section
/-! What one instruction does, said once. Its execute phase takes the fault of `raised` when there is one and otherwise
ends in `effect`; `exec_cases` ties both to `exec`. Claims about every instruction are then claims about `raised` and
`effect`. -/

namespace Sys2Proof.Machine

/-- The cause and the address of the fault an instruction takes in a state, if it takes one (60_exceptions.md R222 to
R225, R227). -/
def raised (s : State) : Instr → Option (FaultCause × Nat)
  | .ret _ => if s.sp = 0 then some (.stackUnderflow, 0) else none
  | .call _ => if s.sp.val = stackDepth then some (.stackOverflow, 0) else none
  | .drw _ _ n => firstFault readFault s.i.toNat n.toNat
  | .ldB _ => firstFault (writeFault s.cfg) s.i.toNat 3
  | .storeRegs x => firstFault (writeFault s.cfg) s.i.toNat (x.val + 1)
  | .loadRegs x => firstFault readFault s.i.toNat (x.val + 1)
  | _ => none

/-- The state in which an instruction's execute phase ends when it takes no fault. -/
def effect (s : State) : Instr → State
  | .cls _ => s.advance.paint clearGrid
  | .ret _ => s.popCall
  | .jp nnn => s.setPc nnn.toNat
  | .call nnn => s.pushCall nnn.toNat
  | .seImm x kk => s.skipIf (s.reg x == kk)
  | .seReg x y => s.skipIf (s.reg x == s.reg y)
  | .sneImm x kk => s.skipIf (s.reg x != kk)
  | .sneReg x y => s.skipIf (s.reg x != s.reg y)
  | .ldImm x kk => s.advance.setReg x kk
  | .ldReg x y => s.advance.setReg x (s.reg y)
  | .addImm x kk => s.advance.setReg x (addByte (s.reg x) kk)
  | .orReg x y => s.advance.setReg x (s.reg x ||| s.reg y)
  | .andReg x y => s.advance.setReg x (s.reg x &&& s.reg y)
  | .xorReg x y => s.advance.setReg x (s.reg x ^^^ s.reg y)
  | .addReg x y => s.advance.writeResultAndFlag x (addByte (s.reg x) (s.reg y)) (addCarry (s.reg x) (s.reg y))
  | .sub x y => s.advance.writeResultAndFlag x (subByte (s.reg x) (s.reg y)) (subFlag (s.reg x) (s.reg y))
  | .subn x y => s.advance.writeResultAndFlag x (subByte (s.reg y) (s.reg x)) (subFlag (s.reg y) (s.reg x))
  | .shr x _ => s.advance.writeResultAndFlag x (shrByte (s.reg x)) (shrFlag (s.reg x))
  | .shl x _ => s.advance.writeResultAndFlag x (shlByte (s.reg x)) (shlFlag (s.reg x))
  | .ldI nnn => s.advance.setI (nnn.setWidth 16)
  | .jpV0 nnn => s.setPc (nnn.toNat + (s.reg 0).toNat)
  | .rnd x kk => s.advance.setReg x (s.inp.rnd &&& kk)
  | .drw x y n => (s.advance.paint (s.drawn x y n.toNat).1).setFlag (s.drawn x y n.toNat).2
  | .skp x => s.skipIf (s.keyDown (s.reg x))
  | .sknp x => s.skipIf (!s.keyDown (s.reg x))
  | .ldVxDt x => s.advance.setReg x s.dt
  | .ldDtVx x => s.advance.setDt (s.reg x)
  | .ldStVx x => s.advance.setSt (s.reg x)
  | .ldVxK x => if s.keys = 0 then s else s.advance.setReg x (BitVec.ofNat 8 (keySelect s.cfg s.keys).val)
  | .addI x =>
    let t := s.advance.setI (wrapI s.cfg (addISum s x))
    if s.cfg.addiVf then t.setFlag (addIFlag (addISum s x)) else t
  | .ldF x => s.advance.setI (BitVec.ofNat 16 ((s.reg x).toNat * 5))
  | .ldB x => s.advance.writeBytes s.i.toNat (bcdDigits (s.reg x))
  | .storeRegs x => (s.advance.writeBytes s.i.toNat (s.regsTo x)).advanceI x
  | .loadRegs x => (s.advance.loadRegsFrom x s.i.toNat).advanceI x
  | .unknown w => s.advance.emit (.unknown w s.pc)

/-- What an execute phase can do, for every instruction and from every state: fault entry with what `raised` names, or
`effect`. -/
theorem exec_cases {i : Instr} {s t : State} (h : exec i s = .next t) :
    (∃ c a, raised s i = some (c, a) ∧ t = s.takeFault c a) ∨ (raised s i = none ∧ t = effect s i) := by
  cases i with
  | ret ign =>
    by_cases hsp : s.sp = 0 <;> simp only [exec, execRet, hsp, if_true, if_false, Host.Outcome.next.injEq] at h
    · exact .inl ⟨_, _, by simp [raised, hsp], h.symm⟩
    · exact .inr ⟨by simp [raised, hsp], h.symm⟩
  | call nnn =>
    by_cases hsp : s.sp.val = stackDepth <;>
      simp only [exec, execCall, hsp, if_true, if_false, Host.Outcome.next.injEq] at h
    · exact .inl ⟨_, _, by simp [raised, hsp], h.symm⟩
    · exact .inr ⟨by simp [raised, hsp], h.symm⟩
  | drw x y n =>
    simp only [exec, execDrw] at h
    split at h <;> injection h with h
    · exact .inl ⟨_, _, ‹_›, h.symm⟩
    · exact .inr ⟨‹_›, h.symm⟩
  | ldB x =>
    obtain ⟨c, a, hf, ht⟩ | ⟨hf, ht⟩ := State.storeAtI_eq_next h
    · exact .inl ⟨c, a, hf, ht⟩
    · exact .inr ⟨hf, ht⟩
  | storeRegs x =>
    obtain ⟨c, a, hf, ht⟩ | ⟨hf, ht⟩ := State.storeAtI_eq_next h <;> rw [State.length_regsTo] at hf
    · exact .inl ⟨c, a, hf, ht⟩
    · exact .inr ⟨hf, ht⟩
  | loadRegs x =>
    simp only [exec, execLoadRegs] at h
    split at h <;> injection h with h
    · exact .inl ⟨_, _, ‹_›, h.symm⟩
    · exact .inr ⟨‹_›, h.symm⟩
  | ldVxK x =>
    simp only [exec, execLdVxK] at h
    refine .inr ⟨rfl, ?_⟩
    split at h <;> rw [← Host.Outcome.next.inj h] <;> simp only [effect, *, if_true, if_false]
  | _ => exact .inr ⟨rfl, (Host.Outcome.next.inj h).symm⟩

theorem exec_of_raised {i : Instr} {s : State} {c : FaultCause} {a : Nat} (h : raised s i = some (c, a)) :
    exec i s = .next (s.takeFault c a) := by
  obtain ⟨t, ht⟩ := exec_eq_next i s
  obtain ⟨c', a', hr, rfl⟩ | ⟨hr, -⟩ := exec_cases ht <;> rw [h] at hr <;> cases hr
  exact ht

theorem exec_of_not_raised {i : Instr} {s : State} (h : raised s i = none) : exec i s = .next (effect s i) := by
  obtain ⟨t, ht⟩ := exec_eq_next i s
  obtain ⟨c, a, hr, -⟩ | ⟨-, rfl⟩ := exec_cases ht
  · rw [h] at hr; cases hr
  · exact ht

/-- A fetch that succeeds was at an address of at most 0xFFE (40_cycle_and_fetch.md R106). -/
theorem State.pc_le_of_fetch {s : State} {w : Word} (h : s.fetch = .ok w) : s.pc.toNat ≤ 0xFFE := by
  unfold State.fetch at h
  split at h
  · cases h
  · have := (readFault_eq_none_iff _).1 ((firstFault_eq_none_iff _ _ _).1 ‹_› 1 (by decide))
    omega

/-- What an execute phase can do: the fault of the fetch, the fault of the instruction, or its effect. -/
theorem State.execute_cases {s t : State} (h : s.execute = .next t) :
    (∃ c a, firstFault readFault s.pc.toNat 2 = some (c, a) ∧ t = s.takeFault c a) ∨
    ∃ w, s.fetch = .ok w ∧
      ((∃ c a, raised s (decode w) = some (c, a) ∧ t = s.takeFault c a) ∨
       (raised s (decode w) = none ∧ t = effect s (decode w))) := by
  unfold State.execute at h
  cases hf : s.fetch with
  | error e =>
    rw [hf] at h
    unfold State.fetch at hf
    split at hf <;> cases hf
    exact .inl ⟨_, _, ‹_›, (Host.Outcome.next.inj h).symm⟩
  | ok w =>
    rw [hf] at h
    exact .inr ⟨w, rfl, exec_cases h⟩

end Sys2Proof.Machine
end

section
/-! What each update of the state adds to a frame: the frame so far is kept when the parts that the update writes may
change. -/

namespace Sys2Proof.Claims

open Sys2Proof.Machine

section
variable {s t : State} {may : Part → Prop}

theorem Frame.setReg (h : Frame s t may) {x : Reg} (hx : may (.reg x)) (b : Byte) : Frame s (t.setReg x b) may := by
  intro p hp
  cases p with
  | reg y =>
    have hy : y ≠ x := by rintro rfl; exact hp hx
    exact (t.reg_setReg_other b hy).trans (h _ hp)
  | _ => exact h _ hp

theorem Frame.setFlag (h : Frame s t may) (hf : may (.reg 15)) (f : Bool) : Frame s (t.setFlag f) may :=
  h.setReg hf _

theorem Frame.writeResultAndFlag (h : Frame s t may) {x : Reg} (hx : may (.reg x)) (hf : may (.reg 15)) (r : Byte)
    (f : Bool) : Frame s (t.writeResultAndFlag x r f) may := by
  unfold State.writeResultAndFlag
  split
  · split
    · exact h.setFlag hf f
    · exact h.setReg hf r
  · exact (h.setReg hx r).setFlag hf f

theorem Frame.setPc (h : Frame s t may) (hp : may .pc) (v : Nat) : Frame s (t.setPc v) may := by
  intro p hn
  cases p with
  | pc => exact absurd hp hn
  | _ => exact h _ hn

theorem Frame.advance (h : Frame s t may) (hp : may .pc) : Frame s t.advance may := h.setPc hp _

theorem Frame.skipIf (h : Frame s t may) (hp : may .pc) (taken : Bool) : Frame s (t.skipIf taken) may := by
  cases taken with
  | false => exact h.advance hp
  | true => exact h.setPc hp _

theorem Frame.setI (h : Frame s t may) (hi : may .i) (a : Word) : Frame s (t.setI a) may := by
  intro p hn
  cases p with
  | i => exact absurd hi hn
  | _ => exact h _ hn

theorem Frame.setDt (h : Frame s t may) (hd : may .dt) (b : Byte) : Frame s (t.setDt b) may := by
  intro p hn
  cases p with
  | dt => exact absurd hd hn
  | _ => exact h _ hn

theorem Frame.setSt (h : Frame s t may) (hs : may .st) (b : Byte) : Frame s (t.setSt b) may := by
  intro p hn
  cases p with
  | st => exact absurd hs hn
  | _ => exact h _ hn

theorem Frame.emit (h : Frame s t may) (he : may .events) (e : Event) : Frame s (t.emit e) may := by
  intro p hn
  cases p with
  | events => exact absurd he hn
  | _ => exact h _ hn

theorem Frame.paint (h : Frame s t may) (hc : ∀ q, may (.cell q)) (hd : may .dirty) (g : Grid) :
    Frame s (t.paint g) may := by
  intro p hn
  cases p with
  | cell q => exact absurd (hc q) hn
  | dirty => exact absurd hd hn
  | _ => exact h _ hn

theorem Frame.takeFault (h : Frame s t may) (hr : may .runState) (hf : may .faultRecord) (c : FaultCause) (a : Nat) :
    Frame s (t.takeFault c a) may := by
  intro p hn
  cases p with
  | runState => exact absurd hr hn
  | faultRecord => exact absurd hf hn
  | _ => exact h _ hn

theorem Frame.popCall (h : Frame s t may) (hsp : may .sp) (hp : may .pc) : Frame s t.popCall may := by
  intro p hn
  cases p with
  | sp => exact absurd hsp hn
  | pc => exact absurd hp hn
  | _ => exact h _ hn

theorem Frame.pushCall (h : Frame s t may) (hsp : may .sp) (hp : may .pc)
    (he : ∀ j : Fin 16, j.val = t.sp.val → may (.entry j)) (v : Nat) : Frame s (t.pushCall v) may := by
  intro p hn
  cases p with
  | sp => exact absurd hsp hn
  | pc => exact absurd hp hn
  | entry j =>
    have hj : t.sp.val ≠ j.val := fun e => hn (he j e.symm)
    have hkeep : (t.pushCall v).stack[j] = t.stack[j] := by simp [hj]
    exact hkeep.trans (h _ hn)
  | _ => exact h _ hn

theorem Frame.advanceI (h : Frame s t may) (hi : t.cfg.ldstAdvanceI = true → may .i) (x : Reg) :
    Frame s (t.advanceI x) may := by
  unfold State.advanceI
  split
  · exact h.setI (hi ‹_›) _
  · exact h

theorem Frame.loadRegsFrom (h : Frame s t may) {x : Reg} (hr : ∀ r, r ≤ x → may (.reg r)) (a : Nat) :
    Frame s (t.loadRegsFrom x a) may := by
  intro p hn
  cases p with
  | reg r =>
    have hx : ¬ r ≤ x := fun e => hn (hr r e)
    have hkeep : (t.loadRegsFrom x a).reg r = t.reg r := by rw [State.reg_loadRegsFrom, if_neg hx]
    exact hkeep.trans (h _ hn)
  | byte b => exact (State.readByte_congr rfl rfl b).trans (h _ hn)
  | _ => simpa [Same] using h _ hn

theorem Frame.writeByte (h : Frame s t may) {a : Nat} (ha : may (.byte a)) (b : Byte) :
    Frame s (t.writeByte a b) may := by
  intro p hn
  cases p with
  | byte c =>
    have hc : c ≠ a := by rintro rfl; exact hn ha
    exact (t.readByte_writeByte_other b hc).trans (h _ hn)
  | _ => exact h _ hn

theorem Frame.writeBytes (h : Frame s t may) (a : Nat) (bs : List Byte)
    (hb : ∀ k, k < bs.length → may (.byte (a + k))) : Frame s (t.writeBytes a bs) may := by
  induction bs generalizing t a with
  | nil => exact h
  | cons b bs ih =>
    refine ih (h.writeByte (hb 0 (by simp)) b) (a + 1) fun k hk => ?_
    rw [show a + 1 + k = a + (k + 1) by omega]
    exact hb (k + 1) (by simpa using hk)

end

/-- The access matrix for an instruction that takes no fault (10_state.md R40). -/
theorem frame_effect (s : State) (i : Instr) : Frame s (effect s i) (fun p => p = .pc ∨ mayWrite s i p) := by
  have still : Frame s s (fun p => p = .pc ∨ mayWrite s i p) := Frame.refl s _
  have adv := still.advance (.inl rfl)
  cases i with
  | cls ign => exact adv.paint (fun q => .inr (.inr ⟨q, rfl⟩)) (.inr (.inl rfl)) _
  | ret ign => exact still.popCall (.inr rfl) (.inl rfl)
  | call nnn => exact still.pushCall (.inr (.inl rfl)) (.inl rfl) (fun j hj => .inr (.inr ⟨j, hj, rfl⟩)) _
  | jp | jpV0 => exact still.setPc (.inl rfl) _
  | seImm | seReg | sneImm | sneReg | skp | sknp => exact still.skipIf (.inl rfl) _
  | ldImm | ldReg | addImm | orReg | andReg | xorReg | rnd | ldVxDt => exact adv.setReg (.inr rfl) _
  | addReg | sub | subn | shr | shl => exact adv.writeResultAndFlag (.inr (.inl rfl)) (.inr (.inr rfl)) _ _
  | ldI | ldF => exact adv.setI (.inr rfl) _
  | drw x y n =>
    exact (adv.paint (fun q => .inr (.inr (.inr ⟨q, rfl⟩))) (.inr (.inr (.inl rfl))) _).setFlag (.inr (.inl rfl)) _
  | ldDtVx => exact adv.setDt (.inr rfl) _
  | ldStVx => exact adv.setSt (.inr rfl) _
  | ldVxK x =>
    simp only [effect]
    split
    · exact still
    · exact adv.setReg (.inr rfl) _
  | addI x =>
    simp only [effect]
    split
    · exact (adv.setI (.inr (.inl rfl)) _).setFlag (.inr (.inr ⟨‹_›, rfl⟩)) _
    · exact adv.setI (.inr (.inl rfl)) _
  | ldB x => exact adv.writeBytes _ _ fun k hk => .inr ⟨k, hk, rfl⟩
  | storeRegs x =>
    refine (adv.writeBytes _ _ fun k hk => .inr (.inl ⟨k, ?_, rfl⟩)).advanceI (fun hc => .inr (.inr ⟨?_, rfl⟩)) x
    · rwa [State.length_regsTo] at hk
    · simpa using hc
  | loadRegs x =>
    exact (adv.loadRegsFrom (fun r hr => .inr (.inl ⟨r, hr, rfl⟩)) _).advanceI (fun hc => .inr (.inr ⟨hc, rfl⟩)) x
  | unknown w => exact adv.emit (.inr rfl) _

/-- No row of the access matrix has the run state. -/
@[simp] theorem effect_runState (s : State) (i : Instr) : (effect s i).runState = s.runState := by
  refine frame_effect s i .runState ?_
  cases i <;> simp [mayWrite, bytesFrom]

/-- Settles O42: what `raised` names is fault entry, and otherwise the frame of `effect` is the instruction's row. -/
theorem instructionsWriteOnlyTheirRow : Obligations.InstructionsWriteOnlyTheirRow := by
  intro i s t hrun h
  obtain ⟨c, a, -, rfl⟩ | ⟨-, rfl⟩ := exec_cases h
  · exact .inr ⟨rfl, (Frame.refl s _).takeFault (by simp) (by simp) c a⟩
  · exact .inl ⟨by simp [hrun], frame_effect s i⟩

theorem flagByte_le_one (f : Bool) : (flagByte f).toNat ≤ 1 := by
  cases f <;> decide

/-- WriteResultAndFlag leaves a flag in VF unless VF is the result's register and the result has priority
(42_load_alu.md R141). -/
theorem flag_writeResultAndFlag_le_one (s : State) (x : Reg) (r : Byte) (f : Bool)
    (hx : x ≠ 15 ∨ s.cfg.vfPriority = .flag) : ((s.writeResultAndFlag x r f).reg 15).toNat ≤ 1 := by
  have hkeep : ¬ (x = Reg.flag ∧ s.cfg.vfPriority = .result) := by
    rintro ⟨rfl, hp⟩
    simp [hp] at hx
  rw [State.reg_writeResultAndFlag, if_pos rfl, if_neg hkeep]
  exact flagByte_le_one f

theorem flag_setFlag_le_one (s : State) (f : Bool) : ((s.setFlag f).reg 15).toNat ≤ 1 := by
  rw [State.reg_setFlag, if_pos rfl]
  exact flagByte_le_one f

/-- Settles O43: the five instructions with a result, then DRW and ADD I,Vx. -/
theorem flagIsZeroOrOne : Obligations.FlagIsZeroOrOne := by
  intro i s t _ hw h hrun
  obtain ⟨c, a, -, rfl⟩ | ⟨-, rfl⟩ := exec_cases h
  · cases hrun
  cases i with
  | addReg | sub | subn | shr | shl => exact flag_writeResultAndFlag_le_one s.advance _ _ _ hw
  | drw x y n => exact flag_setFlag_le_one _ _
  | addI x =>
    have hvf : s.cfg.addiVf = true := hw
    simp only [effect, hvf, if_true]
    exact flag_setFlag_le_one _ _
  | _ => exact hw.elim

/-- The access matrix at `DT`: LD DT,Vx is the only instruction that writes it (10_state.md R28). -/
theorem effect_dt (s : State) (i : Instr) (hi : ∀ x, i ≠ .ldDtVx x) : (effect s i).dt = s.dt := by
  refine frame_effect s i .dt ?_
  cases i with
  | ldDtVx x => exact absurd rfl (hi x)
  | _ => simp [mayWrite, bytesFrom]

/-- No row of the access matrix has the inputs of the cycle. -/
theorem effect_inp (s : State) (i : Instr) : (effect s i).inp = s.inp := by
  refine frame_effect s i .inp ?_
  cases i <;> simp [mayWrite, bytesFrom]

/-- A cycle that executes an instruction and does not end in Faulted is that instruction's effect, then render and
tick. -/
theorem cycle_cases {s t : State} {inp : CycleIn} {w : Word} (hf : s.fetch = .ok w) (hq : inp.quit = false)
    (h : s.cycle inp = .next t) (ht : t.runState ≠ .faulted) :
    t = (effect (s.poll inp) (decode w)).render.tick := by
  obtain ⟨hq', -⟩ | ⟨-, u, hu, rfl⟩ := State.cycle_eq_next h
  · rw [hq] at hq'; cases hq'
  have hu' : u.runState ≠ .faulted := fun e => ht (by rwa [State.finish_of_faulted e])
  have hpoll : (s.poll inp).fetch = .ok w := hf
  have hexec : exec (decode w) (s.poll inp) = .next u := by simpa only [State.execute, hpoll] using hu
  obtain ⟨c, a, -, rfl⟩ | ⟨-, rfl⟩ := exec_cases hexec
  · exact absurd rfl hu'
  · exact State.finish_eq hu'

/-- The delay timer after render and tick. -/
theorem dt_render_tick (u : State) : u.render.tick.dt.toNat = u.dt.toNat - if u.inp.tick then 1 else 0 := by
  cases hu : u.inp.tick <;> simp [hu, tickDown_toNat]

/-- Settles O59: only LD DT,Vx and the tick move `DT`. -/
theorem delayTimerCountsDownToZero : Obligations.DelayTimerCountsDownToZero := by
  refine ⟨fun x s => ⟨_, rfl, (State.reg_setReg _ _ _ _).trans (if_pos rfl)⟩, fun s t inp w hf hq h ht => ?_⟩
  have hdt : t.dt.toNat = (effect (s.poll inp) (decode w)).dt.toNat - if inp.tick then 1 else 0 := by
    rw [cycle_cases hf hq h ht, dt_render_tick, effect_inp]
    rfl
  refine ⟨fun x hx => ?_, fun hx => ?_⟩
  · rw [hdt, hx]
    rfl
  · rw [hdt, effect_dt _ _ hx]
    rfl

end Sys2Proof.Claims
end

section
/-! The invariant through a step: one rule per update of the state, then the effects of the instructions, the phases of a
cycle and the moves of the host. -/

namespace Sys2Proof.Machine

/-- The causes and addresses of a fault record, by cause (60_exceptions.md R221): what `Inv.record` asks of the record
that a fault writes. -/
def FaultCause.fits : FaultCause → Nat → Prop
  | .none, _ => False
  | .memRange, a => 0x1000 ≤ a ∧ a ≤ 0x1000E
  | .memReserved, a => a ≤ reservedEnd
  | .stackOverflow, a => a = 0
  | .stackUnderflow, a => a = 0

theorem fits_of_read {a n b : Nat} {c : FaultCause} (hn : a + n ≤ 0x1000F)
    (h : firstFault readFault a n = some (c, b)) : c.fits b := by
  obtain ⟨-, hb, hf, -⟩ := firstFault_eq_some h
  obtain ⟨rfl, hlow⟩ := readFault_eq_some hf
  exact ⟨hlow, by omega⟩

theorem fits_of_store {cfg : Config} {a n b : Nat} {c : FaultCause} (hn : a + n ≤ 0x1000F)
    (h : firstFault (writeFault cfg) a n = some (c, b)) : c.fits b := by
  obtain ⟨-, hb, hf, -⟩ := firstFault_eq_some h
  obtain ⟨rfl, hlow⟩ | ⟨rfl, hres, -⟩ := writeFault_eq_some hf
  · exact ⟨hlow, by omega⟩
  · exact hres

/-- A store that passes its validation lies within memory, and above the reserved region where stores into that fault
(20_memory.md R54, R56). -/
theorem bounds_of_store {cfg : Config} {a n : Nat} (hn : 0 < n) (h : firstFault (writeFault cfg) a n = none) :
    a + n ≤ 0x1000 ∧ (cfg.reservedWrite = .fault → 0x1FF < a) := by
  have hall := (firstFault_eq_none_iff _ _ _).1 h
  obtain ⟨-, hfirst⟩ := (writeFault_eq_none_iff _ _).1 (hall 0 hn)
  obtain ⟨hlast, -⟩ := (writeFault_eq_none_iff _ _).1 (hall (n - 1) (by omega))
  refine ⟨by omega, fun hcfg => ?_⟩
  by_contra hlow
  rw [hcfg] at hfirst
  exact absurd (hfirst (by omega)) (by decide)

/-- What an instruction raises is a cause with an address in its range (60_exceptions.md R221). -/
theorem raised_fits {s : State} {i : Instr} {c : FaultCause} {a : Nat} (h : raised s i = some (c, a)) : c.fits a := by
  have hi : s.i.toNat < 0x10000 := s.i.isLt
  cases i with
  | ret ign | call nnn =>
    simp only [raised] at h
    split at h <;> cases h
    rfl
  | drw x y n => exact fits_of_read (by have := n.isLt; omega) h
  | loadRegs x => exact fits_of_read (by have := x.isLt; omega) h
  | ldB x => exact fits_of_store (by omega) h
  | storeRegs x => exact fits_of_store (by have := x.isLt; omega) h
  | _ => cases h

/-- The invariant but for the repaint flag: what holds through the execute phase, where CLS and DRW leave a repaint
owed. -/
def MidInv (s : State) : Prop := Inv { s with dirty := false }

/-- The fields that the invariant reads, but for the repaint flag. -/
def State.invData (s : State) :
    List Host.Cell × Config × Word × Word × Vector Word 16 × RunState × FaultCause × BitVec 17 :=
  (s.mem, s.cfg, s.i, s.pc, s.stack, s.runState, s.faultCause, s.faultAddr)

theorem MidInv.congr {s t : State} (h : MidInv s) (e : t.invData = s.invData) : MidInv t := by
  cases s
  cases t
  simp only [State.invData, Prod.mk.injEq] at e
  obtain ⟨rfl, rfl, rfl, rfl, rfl, rfl, rfl, rfl⟩ := e
  exact ⟨h.memory, h.clean, h.index, h.counter, h.counterFits, h.returns, h.returnsFit, h.reserved, h.recorded,
    h.record⟩

theorem Inv.mid {s : State} (h : Inv s) : MidInv s :=
  ⟨h.memory, rfl, h.index, h.counter, h.counterFits, h.returns, h.returnsFit, h.reserved, h.recorded, h.record⟩

theorem MidInv.inv {s : State} (h : MidInv s) (hd : s.dirty = false) : Inv s :=
  ⟨h.memory, hd, h.index, h.counter, h.counterFits, h.returns, h.returnsFit, h.reserved, h.recorded, h.record⟩

/-- Updates of other fields keep the invariant. -/
theorem Inv.congr {s t : State} (h : Inv s) (e : t.invData = s.invData) (hd : t.dirty = s.dirty) : Inv t :=
  (h.mid.congr e).inv (hd.trans h.clean)

section
variable {s : State}

theorem MidInv.setPc (h : MidInv s) {v : Nat} (hv : v ≤ 0x10FE) : MidInv (s.setPc v) :=
  ⟨h.memory, rfl, h.index, (keepPc_le _ _).trans hv, keepPc_lt _ _, h.returns, h.returnsFit, h.reserved, h.recorded,
    h.record⟩

theorem MidInv.skipIf (h : MidInv s) (hp : s.pc.toNat ≤ 0xFFE) (taken : Bool) : MidInv (s.skipIf taken) := by
  cases taken <;> exact h.setPc (by omega)

theorem MidInv.setI (h : MidInv s) {a : Word} (ha : s.cfg.addiMask12 = true → a.toNat ≤ 0xFFF) : MidInv (s.setI a) :=
  ⟨h.memory, rfl, ha, h.counter, h.counterFits, h.returns, h.returnsFit, h.reserved, h.recorded, h.record⟩

theorem wrapI_le {c : Config} (v : Nat) (h : c.addiMask12 = true) : (wrapI c v).toNat ≤ 0xFFF := by
  rw [wrapI_toNat, if_pos h]
  omega

theorem MidInv.advanceI (h : MidInv s) (x : Reg) : MidInv (s.advanceI x) := by
  unfold State.advanceI
  split
  · exact h.setI (wrapI_le _)
  · exact h

theorem MidInv.writeResultAndFlag (h : MidInv s) (x : Reg) (r : Byte) (f : Bool) :
    MidInv (s.writeResultAndFlag x r f) :=
  h.congr (by simp [State.invData])

theorem MidInv.popCall (h : MidInv s) : MidInv s.popCall :=
  have top : s.sp.val - 1 < 16 := by have := s.sp.isLt; omega
  ⟨h.memory, rfl, h.index, (h.returns ⟨_, top⟩).trans (by decide), h.returnsFit ⟨_, top⟩, h.returns, h.returnsFit,
    h.reserved, h.recorded, h.record⟩

theorem MidInv.pushCall (h : MidInv s) (hp : s.pc.toNat ≤ 0xFFE) {v : Nat} (hv : v ≤ 0x10FE) :
    MidInv (s.pushCall v) := by
  have entry (P : Word → Prop) (hnew : P s.nextPc) (hold : ∀ j : Fin 16, P s.stack[j]) (j : Fin 16) :
      P (s.pushCall v).stack[j] := by
    simp only [State.pushCall_stack, Fin.getElem_fin, Vector.getElem_setIfInBounds]
    split
    · exact hnew
    · exact hold j
  exact ⟨h.memory, rfl, h.index, (keepPc_le _ _).trans hv, keepPc_lt _ _,
    entry (·.toNat ≤ 0x1000) ((keepPc_le _ _).trans (by omega)) h.returns,
    entry (·.toNat < 2 ^ s.cfg.pcWidth.val) (keepPc_lt _ _) h.returnsFit, h.reserved, h.recorded, h.record⟩

theorem MidInv.writeBytes (h : MidInv s) {a : Nat} {bs : List Byte} (hfit : a + bs.length ≤ 0x1000)
    (hres : s.cfg.reservedWrite = .fault → 0x1FF < a) : MidInv (s.writeBytes a bs) := by
  have hother : MidInv { s.writeBytes a bs with mem := s.mem } := h.congr (by simp [State.invData])
  refine ⟨State.memWf_writeBytes (s := s) h.memory a bs hfit, rfl, hother.index, hother.counter, hother.counterFits,
    hother.returns, hother.returnsFit, fun hcfg b hb => ?_, hother.recorded, hother.record⟩
  have hcfg' : s.cfg.reservedWrite = .fault := by simpa using hcfg
  have hout : b < a := by
    have := hres hcfg'
    simp only [reservedEnd] at hb
    omega
  have hkeep : (s.writeBytes a bs).readByte b = resetByte s.cfg b :=
    (s.readByte_writeBytes_other a bs (.inl hout)).trans (h.reserved hcfg' b hb)
  simpa [State.readByte] using hkeep

end

/-- The effect of an instruction fetched within memory keeps the invariant, but for the repaint flag. -/
theorem MidInv.effect {s : State} {i : Instr} (h : MidInv s) (hp : s.pc.toNat ≤ 0xFFE) (hn : raised s i = none) :
    MidInv (effect s i) := by
  have adv : MidInv s.advance := h.setPc (by omega)
  cases i with
  | cls | ldImm | ldReg | addImm | orReg | andReg | xorReg | rnd | drw | ldVxDt | ldDtVx | ldStVx | unknown =>
    exact adv.congr rfl
  | ret ign => exact h.popCall
  | jp nnn => exact h.setPc (by have := nnn.isLt; omega)
  | call nnn => exact h.pushCall hp (by have := nnn.isLt; omega)
  | seImm | seReg | sneImm | sneReg | skp | sknp => exact h.skipIf hp _
  | addReg | sub | subn | shr | shl => exact adv.writeResultAndFlag _ _ _
  | ldI nnn => exact adv.setI fun _ => by have := nnn.isLt; rw [BitVec.toNat_setWidth]; omega
  | jpV0 nnn => exact h.setPc (by have := nnn.isLt; have := (s.reg 0).isLt; omega)
  | ldVxK x =>
    simp only [Machine.effect]
    split
    · exact h
    · exact adv.congr rfl
  | addI x =>
    have hi : MidInv (s.advance.setI (wrapI s.cfg (addISum s x))) := adv.setI (wrapI_le _)
    simp only [Machine.effect]
    split
    · exact hi.congr rfl
    · exact hi
  | ldF x => exact adv.setI fun _ => (Nat.mod_le _ _).trans (by have := (s.reg x).isLt; omega)
  | ldB x =>
    obtain ⟨hfit, hres⟩ := bounds_of_store (by decide) hn
    exact adv.writeBytes hfit hres
  | storeRegs x =>
    obtain ⟨hfit, hres⟩ := bounds_of_store (n := x.val + 1) (by omega) hn
    rw [← s.length_regsTo x] at hfit
    exact (adv.writeBytes hfit hres).advanceI x
  | loadRegs x =>
    have hload : MidInv (s.advance.loadRegsFrom x s.i.toNat) := adv.congr rfl
    exact hload.advanceI x

theorem Inv.takeFault {s : State} (h : Inv s) {c : FaultCause} {a : Nat} (hf : c.fits a) : Inv (s.takeFault c a) := by
  refine ⟨h.memory, h.clean, h.index, h.counter, h.counterFits, h.returns, h.returnsFit, h.reserved, ?_, ?_⟩
  · cases c <;> simp [FaultCause.fits] at hf ⊢
  · cases c <;> simp_all [FaultCause.fits, State.recordFits] <;> omega

/-- Render pays the repaint that is owed, so what follows an execute phase restores the whole invariant
(10_state.md R33). -/
theorem MidInv.finish {t : State} (h : MidInv t) (hr : t.runState ≠ .faulted) : Inv t.finish := by
  rw [State.finish_eq hr]
  have hfields : t.render.tick.invData = t.invData := by simp [State.invData]
  exact (h.congr hfields).inv (by simp)

theorem Inv.cycle {s t : State} {inp : CycleIn} (h : Inv s) (hrun : s.runState = .running)
    (hc : s.cycle inp = .next t) : Inv t := by
  obtain ⟨-, rfl⟩ | ⟨-, u, hu, rfl⟩ := State.cycle_eq_next hc
  · have hnone : s.faultCause = .none := by simpa [hrun] using h.recorded
    exact ⟨h.memory, h.clean, h.index, h.counter, h.counterFits, h.returns, h.returnsFit, h.reserved,
      by simp [hnone], h.record⟩
  have hpoll : Inv (s.poll inp) := h.congr rfl rfl
  obtain ⟨c, a, hf, rfl⟩ | ⟨w, hw, ⟨c, a, hf, rfl⟩ | ⟨hn, rfl⟩⟩ := State.execute_cases hu
  · rw [State.finish_of_faulted rfl]
    have hpc : s.pc.toNat ≤ 0x10FE := h.counter
    exact hpoll.takeFault (fits_of_read (by simp only [State.poll_pc]; omega) hf)
  · rw [State.finish_of_faulted rfl]
    exact hpoll.takeFault (raised_fits hf)
  · exact (hpoll.mid.effect (State.pc_le_of_fetch hw) hn).finish (by simp [hrun])

/-- Reset by the host, from any state (10_state.md R39). -/
theorem inv_hostReset (s : State) : Inv s.hostReset where
  memory := rfl
  clean := rfl
  index _ := (by decide : State.reset.i.toNat ≤ 0xFFF)
  counter := (by decide : State.reset.pc.toNat ≤ 0x10FE)
  counterFits := lt_of_lt_of_le (by decide : State.reset.pc.toNat < 2 ^ 10)
    (Nat.pow_le_pow_right (n := 2) (by decide) s.cfg.pcWidth.property)
  returns := (by decide : ∀ j : Fin 16, State.reset.stack[j].toNat ≤ 0x1000)
  returnsFit j := lt_of_le_of_lt ((by decide : ∀ j : Fin 16, State.reset.stack[j].toNat ≤ 0) j) (Nat.two_pow_pos _)
  reserved _ _ _ := rfl
  recorded := (by decide : State.reset.runState = .faulted ↔ State.reset.faultCause ≠ .none)
  record := rfl

/-- A load that overruns memory faults at 0x1000 (70_reset_and_hazards.md R264). -/
theorem Inv.loadFault {s : State} (h : Inv s) : Inv (s.loadFault 0x1000) := by
  have hfault := h.takeFault (c := .memRange) (a := 0x1000) ⟨by decide, by decide⟩
  exact hfault.congr rfl rfl

theorem Inv.writeBytes {s : State} (h : Inv s) {a : Nat} {bs : List Byte} (hfit : a + bs.length ≤ 0x1000)
    (hres : s.cfg.reservedWrite = .fault → 0x1FF < a) : Inv (s.writeBytes a bs) :=
  (h.mid.writeBytes hfit hres).inv (by simpa using h.clean)

theorem Inv.hostLoad {s : State} (h : Inv s) (rom : List Byte) : Inv (s.hostLoad rom) := by
  unfold State.hostLoad
  split
  · by_cases hfit : 0x200 + rom.length ≤ 0x1000
    · rw [State.loadFrom_fits _ _ _ hfit]
      exact h.writeBytes hfit fun _ => by decide
    · rw [State.loadFrom_long _ _ _ (by decide) (by simpa using hfit)]
      have hlen : (rom.take (0x1000 - progBase)).length ≤ 0xE00 := List.length_take_le _ _
      exact (h.writeBytes (by simp only [progBase] at hlen ⊢; omega) fun _ => by decide).loadFault
  · exact h

theorem Inv.hostStart {s : State} (h : Inv s) : Inv s.hostStart := by
  unfold State.hostStart
  split
  · have hnone : s.faultCause = .none := by simpa [‹s.runState = .idle›] using h.recorded
    exact ⟨h.memory, h.clean, h.index, h.counter, h.counterFits, h.returns, h.returnsFit, h.reserved,
      by simp [hnone], h.record⟩
  · exact h

theorem Inv.hostMove {s t : State} {move : HostMove} (h : Inv s) (hm : s.hostMove move = .next t) : Inv t := by
  cases move with
  | reset => cases hm; exact inv_hostReset s
  | load rom => cases hm; exact h.hostLoad rom
  | start => cases hm; exact h.hostStart
  | cycle inp =>
    simp only [State.hostMove, State.cycleIfRunning] at hm
    split at hm
    · exact h.cycle ‹_› hm
    · cases hm; exact h

/-- Settles O56: a step is a move of the host, a cycle with the free inputs, or nothing. -/
theorem stepKeepsTheInvariant : Obligations.StepKeepsTheInvariant := by
  intro s t h hs
  obtain ⟨move, rest, -, hm⟩ | ⟨-, hrun, hc⟩ | ⟨-, -, rfl⟩ := step_eq_next hs
  · exact Inv.hostMove (s := { s with host := rest }) (h.congr rfl rfl) hm
  · exact Inv.cycle (s := { s with draws := s.draws + 1 }) (h.congr rfl rfl) hrun hc
  · exact h

end Sys2Proof.Machine
end

section
/-! What no instruction reads: two states that agree on everything else are one state with those parts replaced, and an
instruction's fault and effect do not depend on the replacement. -/

namespace Sys2Proof.Machine

section
variable {d : Nat → Byte}

/-- A canonical memory that somewhere reads other than as unlisted begins at or below that address. -/
theorem Memory.exists_head_le {low k : Nat} {m : List Host.Cell} (h : Memory.wfFrom d low m = true)
    (hk : Memory.get d m k ≠ d k) : ∃ k' b m', m = (k', b) :: m' ∧ k' ≤ k := by
  cases m with
  | nil => exact absurd rfl hk
  | cons p m =>
    refine ⟨p.1, p.2, m, rfl, ?_⟩
    by_contra hlt
    have hp : Memory.wfFrom d p.1 (p :: m) = true := by
      simp only [Memory.wfFrom, Bool.and_eq_true, decide_eq_true_eq] at h ⊢
      obtain ⟨⟨⟨-, htop⟩, hb⟩, hm⟩ := h
      exact ⟨⟨⟨le_refl _, htop⟩, hb⟩, hm⟩
    exact hk (Memory.get_of_lt hp (by omega))

/-- The first pair of a canonical memory does not read as unlisted. -/
theorem Memory.get_head_ne {low k : Nat} {b : Byte} {m : List Host.Cell}
    (h : Memory.wfFrom d low ((k, b) :: m) = true) : Memory.get d ((k, b) :: m) k ≠ d k := by
  simp only [Memory.wfFrom, Bool.and_eq_true, decide_eq_true_eq, bne_iff_ne] at h
  obtain ⟨⟨-, hb⟩, -⟩ := h
  simpa [Memory.get] using hb

/-- Canonical memories that read alike are equal (log 13): their first addresses bound each other, and so on down the
lists. -/
theorem Memory.ext_of_wfFrom {low : Nat} {m m' : List Host.Cell} (h : Memory.wfFrom d low m = true)
    (h' : Memory.wfFrom d low m' = true) (e : ∀ a, Memory.get d m a = Memory.get d m' a) : m = m' := by
  induction m generalizing low m' with
  | nil =>
    cases m' with
    | nil => rfl
    | cons p m' => exact absurd (e p.1).symm (Memory.get_head_ne h')
  | cons p m ih =>
    obtain ⟨k, b⟩ := p
    obtain ⟨k', b', tail', rfl, hle⟩ := Memory.exists_head_le h' (k := k) (e k ▸ Memory.get_head_ne h)
    obtain ⟨k'', b'', tail, heq, hle'⟩ := Memory.exists_head_le h (k := k') (e k' ▸ Memory.get_head_ne h')
    cases heq
    obtain rfl : k = k' := by omega
    obtain rfl : b = b' := by simpa [Memory.get] using e k
    simp only [Memory.wfFrom, Bool.and_eq_true] at h h'
    obtain ⟨-, hm⟩ := h
    obtain ⟨-, hm'⟩ := h'
    rw [ih hm hm' fun a => ?_]
    by_cases ha : a = k
    · subst ha
      rw [Memory.get_of_lt hm (Nat.lt_succ_self a), Memory.get_of_lt hm' (Nat.lt_succ_self a)]
    · simpa [Memory.get, ha] using e a

end

/-- The state `s` with what no instruction reads (10_state.md R42) taken from `u`. -/
def State.withUnread (s u : State) : State :=
  { s with
    st := u.st, dirty := u.dirty, runState := u.runState, faultCause := u.faultCause, faultAddr := u.faultAddr,
    faultPc := u.faultPc, host := u.host, draws := u.draws, events := u.events }

theorem State.skipIf_withUnread (s u : State) (taken : Bool) :
    (s.withUnread u).skipIf taken = (s.skipIf taken).withUnread u := by
  cases taken <;> rfl

theorem State.writeResultAndFlag_withUnread (s u : State) (x : Reg) (r : Byte) (f : Bool) :
    (s.withUnread u).writeResultAndFlag x r f = (s.writeResultAndFlag x r f).withUnread u := by
  have hcfg : (s.withUnread u).cfg = s.cfg := rfl
  unfold State.writeResultAndFlag
  rw [hcfg]
  split
  · split <;> rfl
  · rfl

theorem State.writeBytes_withUnread (s u : State) (a : Nat) (bs : List Byte) :
    (s.withUnread u).writeBytes a bs = (s.writeBytes a bs).withUnread u := by
  induction bs generalizing s a with
  | nil => rfl
  | cons b bs ih => exact ih (s.writeByte a b) (a + 1)

theorem State.advanceI_withUnread (s u : State) (x : Reg) :
    (s.withUnread u).advanceI x = (s.advanceI x).withUnread u := by
  have hcfg : (s.withUnread u).cfg = s.cfg := rfl
  unfold State.advanceI
  rw [hcfg]
  split <;> rfl

theorem raised_withUnread (s u : State) (i : Instr) : raised (s.withUnread u) i = raised s i := by
  cases i <;> rfl

/-- Every effect commutes with the replacement, which then also holds what the instruction itself wrote of those parts. -/
theorem effect_withUnread (s u : State) (i : Instr) :
    ∃ u', effect (s.withUnread u) i = (effect s i).withUnread u' := by
  cases i with
  | cls | drw => exact ⟨{ u with dirty := true }, rfl⟩
  | ldStVx x => exact ⟨{ u with st := s.reg x }, rfl⟩
  | unknown w => exact ⟨{ u with events := u.events ++ [.unknown w s.pc] }, rfl⟩
  | seImm | seReg | sneImm | sneReg | skp | sknp => exact ⟨u, s.skipIf_withUnread u _⟩
  | addReg | sub | subn | shr | shl => exact ⟨u, s.advance.writeResultAndFlag_withUnread u _ _ _⟩
  | ldVxK x =>
    have hkeys : (s.withUnread u).keys = s.keys := rfl
    simp only [effect, hkeys]
    split <;> exact ⟨u, rfl⟩
  | addI x =>
    have hcfg : (s.withUnread u).cfg = s.cfg := rfl
    simp only [effect, hcfg]
    split <;> exact ⟨u, rfl⟩
  | ldB x => exact ⟨u, s.advance.writeBytes_withUnread u _ _⟩
  | storeRegs x =>
    refine ⟨u, (congrArg (State.advanceI · x) (s.advance.writeBytes_withUnread u _ _)).trans ?_⟩
    exact State.advanceI_withUnread _ u x
  | loadRegs x => exact ⟨u, (s.advance.loadRegsFrom x s.i.toNat).advanceI_withUnread u x⟩
  | _ => exact ⟨u, rfl⟩

end Sys2Proof.Machine

namespace Sys2Proof.Claims

open Sys2Proof.Machine

theorem frame_withUnread (s u : State) : Frame s (s.withUnread u) unread := by
  intro p hp
  cases p with
  | st | dirty | runState | faultRecord | host | draws | events => exact absurd (by simp [unread]) hp
  | _ => rfl

/-- A frame of the unread parts, read as an equation: every other field is determined by its parts. -/
theorem eq_withUnread_of_frame {s s' : State} (hwf : s.memWf) (hwf' : s'.memWf) (h : Frame s s' unread) :
    s' = s.withUnread s' := by
  have hcfg : s'.cfg = s.cfg := h .cfg (by simp [unread])
  have hv : s'.v = s.v := Vector.ext fun r hr => h (.reg ⟨r, hr⟩) (by simp [unread])
  have hstack : s'.stack = s.stack := Vector.ext fun j hj => h (.entry ⟨j, hj⟩) (by simp [unread])
  have hfb : s'.fb = s.fb := grid_ext fun p => h (.cell p) (by simp [unread])
  have hmem : s'.mem = s.mem := by
    have hread (a : Nat) : s'.readByte a = s.readByte a := h (.byte a) (by simp [unread])
    simp only [State.readByte, State.memWf, hcfg] at hread hwf'
    exact Memory.ext_of_wfFrom hwf' hwf hread
  have hpc : s'.pc = s.pc := h .pc (by simp [unread])
  have hi : s'.i = s.i := h .i (by simp [unread])
  have hsp : s'.sp = s.sp := h .sp (by simp [unread])
  have hdt : s'.dt = s.dt := h .dt (by simp [unread])
  have hkeys : s'.keys = s.keys := h .keys (by simp [unread])
  have hinp : s'.inp = s.inp := h .inp (by simp [unread])
  rw [State.withUnread, ← hcfg, ← hv, ← hstack, ← hfb, ← hmem, ← hpc, ← hi, ← hsp, ← hdt, ← hkeys, ← hinp]

/-- Settles O44: fault entry from both states, or the effect from both. -/
theorem unreadPartsDoNotMatter : Obligations.UnreadPartsDoNotMatter := by
  intro i s s' t hwf hwf' hframe h
  obtain ⟨u, rfl⟩ : ∃ u, s' = s.withUnread u := ⟨s', eq_withUnread_of_frame hwf hwf' hframe⟩
  obtain ⟨c, a, hr, rfl⟩ | ⟨hr, rfl⟩ := exec_cases h <;> rw [← raised_withUnread s u] at hr
  · exact ⟨_, exec_of_raised hr, frame_withUnread (s.takeFault c a) ((s.withUnread u).takeFault c a)⟩
  · obtain ⟨u', hu'⟩ := effect_withUnread s u i
    exact ⟨_, exec_of_not_raised hr, hu' ▸ frame_withUnread _ u'⟩

end Sys2Proof.Claims
end

section
/-! Every width of the counter of 13 bits or more: the step commutes with the change from one such width to another,
because no value written to `pc` reaches 0x2000. -/

namespace Sys2Proof.Claims

open Sys2Proof.Machine

/-- A wide counter keeps every value a rule writes to it (10_state.md R25). -/
theorem pcKeeps_of_wide {c : Config} (hc : 13 ≤ c.pcWidth.val) {v : Nat} (hv : v < 0x2000) : pcKeeps c v = v :=
  Nat.mod_eq_of_lt (lt_of_wide hc hv)

theorem keepPc_of_wide {c : Config} (hc : 13 ≤ c.pcWidth.val) {v : Nat} (hv : v < 0x2000) :
    keepPc c v = BitVec.ofNat 16 v :=
  congrArg (BitVec.ofNat 16) (pcKeeps_of_wide hc hv)

theorem toNat_pcKeeps_of_wide {c : Config} (hc : 13 ≤ c.pcWidth.val) {v : Nat} (hv : v < 0x2000) :
    (BitVec.ofNat 16 (pcKeeps c v)).toNat = v := by
  rw [pcKeeps_of_wide hc hv, BitVec.toNat_ofNat]
  omega

section
variable {s t : State} {w : PcWidth}

theorem raised_withPcWidth (i : Instr) : raised (withPcWidth s w) i = raised s i := by
  cases i <;> rfl

theorem writeBytes_withPcWidth (a : Nat) (bs : List Byte) :
    (withPcWidth s w).writeBytes a bs = withPcWidth (s.writeBytes a bs) w := by
  induction bs generalizing s a with
  | nil => rfl
  | cons b bs ih => exact ih (s := s.writeByte a b) (a + 1)

theorem writeResultAndFlag_withPcWidth (x : Reg) (r : Byte) (f : Bool) :
    (withPcWidth s w).writeResultAndFlag x r f = withPcWidth (s.writeResultAndFlag x r f) w := by
  have hpriority : (withPcWidth s w).cfg.vfPriority = s.cfg.vfPriority := rfl
  unfold State.writeResultAndFlag
  rw [hpriority]
  split
  · split <;> rfl
  · rfl

theorem advanceI_withPcWidth (x : Reg) : (withPcWidth s w).advanceI x = withPcWidth (s.advanceI x) w := by
  have hadvance : (withPcWidth s w).cfg.ldstAdvanceI = s.cfg.ldstAdvanceI := rfl
  unfold State.advanceI
  rw [hadvance]
  split <;> rfl

section
variable (hs : 13 ≤ s.cfg.pcWidth.val) (hw : 13 ≤ w.val)
include hs hw

theorem keepPc_withPcWidth {v : Nat} (hv : v < 0x2000) : keepPc (withPcWidth s w).cfg v = keepPc s.cfg v := by
  have hw' : 13 ≤ (withPcWidth s w).cfg.pcWidth.val := hw
  rw [keepPc_of_wide hw' hv, keepPc_of_wide hs hv]

theorem setPc_withPcWidth {v : Nat} (hv : v < 0x2000) : (withPcWidth s w).setPc v = withPcWidth (s.setPc v) w := by
  unfold State.setPc
  rw [keepPc_withPcWidth hs hw hv]
  rfl

theorem skipIf_withPcWidth (hp : s.pc.toNat ≤ 0xFFE) (taken : Bool) :
    (withPcWidth s w).skipIf taken = withPcWidth (s.skipIf taken) w := by
  cases taken with
  | false => exact setPc_withPcWidth hs hw (v := s.pc.toNat + 2) (by omega)
  | true => exact setPc_withPcWidth hs hw (v := s.pc.toNat + 4) (by omega)

theorem pushCall_withPcWidth (hp : s.pc.toNat ≤ 0xFFE) {v : Nat} (hv : v < 0x2000) :
    (withPcWidth s w).pushCall v = withPcWidth (s.pushCall v) w := by
  have hnext : (withPcWidth s w).nextPc = s.nextPc := keepPc_withPcWidth hs hw (v := s.pc.toNat + 2) (by omega)
  unfold State.pushCall
  rw [keepPc_withPcWidth hs hw hv, hnext]
  rfl

theorem effect_withPcWidth (i : Instr) (hp : s.pc.toNat ≤ 0xFFE) :
    effect (withPcWidth s w) i = withPcWidth (effect s i) w := by
  have adv : (withPcWidth s w).advance = withPcWidth s.advance w :=
    setPc_withPcWidth hs hw (v := s.pc.toNat + 2) (by omega)
  cases i with
  | ret ign => rfl
  | jp nnn => exact setPc_withPcWidth hs hw (by have := nnn.isLt; omega)
  | call nnn => exact pushCall_withPcWidth hs hw hp (by have := nnn.isLt; omega)
  | seImm | seReg | sneImm | sneReg | skp | sknp => exact skipIf_withPcWidth hs hw hp _
  | jpV0 nnn =>
    exact setPc_withPcWidth hs hw (v := nnn.toNat + (s.reg 0).toNat)
      (by have := nnn.isLt; have := (s.reg 0).isLt; omega)
  | addReg | sub | subn | shr | shl =>
    simp only [effect, adv]
    exact writeResultAndFlag_withPcWidth _ _ _
  | ldVxK x =>
    have hkeys : (withPcWidth s w).keys = s.keys := rfl
    simp only [effect, adv, hkeys]
    split <;> rfl
  | addI x =>
    have hvf : (withPcWidth s w).cfg.addiVf = s.cfg.addiVf := rfl
    simp only [effect, adv, hvf]
    split <;> rfl
  | ldB x =>
    simp only [effect, adv]
    exact writeBytes_withPcWidth _ _
  | storeRegs x =>
    simp only [effect, adv, writeBytes_withPcWidth, advanceI_withPcWidth]
    rfl
  | loadRegs x =>
    simp only [effect, adv]
    exact advanceI_withPcWidth (s := s.advance.loadRegsFrom x s.i.toNat) x
  | _ =>
    simp only [effect, adv]
    rfl

theorem execute_withPcWidth (h : s.execute = .next t) : (withPcWidth s w).execute = .next (withPcWidth t w) := by
  obtain ⟨c, a, hf, rfl⟩ | ⟨word, hf, hcases⟩ := State.execute_cases h
  · have hfetch : (withPcWidth s w).fetch = .error (c, a) := by
      have hf' : firstFault readFault (withPcWidth s w).pc.toNat 2 = some (c, a) := hf
      rw [State.fetch, hf']
    simp only [State.execute, hfetch]
    rfl
  · have hfetch : (withPcWidth s w).fetch = .ok word := hf
    simp only [State.execute, hfetch]
    obtain ⟨c, a, hr, rfl⟩ | ⟨hr, rfl⟩ := hcases <;> rw [← raised_withPcWidth (w := w)] at hr
    · exact exec_of_raised hr
    · rw [exec_of_not_raised hr, effect_withPcWidth hs hw _ (State.pc_le_of_fetch hf)]

end

theorem render_withPcWidth : (withPcWidth t w).render = withPcWidth t.render w := by
  simp only [State.render_eq]
  rfl

theorem tick_withPcWidth : (withPcWidth t w).tick = withPcWidth t.tick w := by
  have hinp : (withPcWidth t w).inp = t.inp := rfl
  cases h : t.inp.tick with
  | false => rw [State.tick_eq_of_not h, State.tick_eq_of_not (hinp ▸ h)]
  | true =>
    rw [State.tick_eq_of_tick h, State.tick_eq_of_tick (hinp ▸ h)]
    rfl

theorem finish_withPcWidth : (withPcWidth t w).finish = withPcWidth t.finish w := by
  have hrun : (withPcWidth t w).runState = t.runState := rfl
  by_cases h : t.runState = .faulted
  · rw [State.finish_of_faulted h, State.finish_of_faulted (hrun ▸ h)]
  · rw [State.finish_eq h, State.finish_eq (hrun ▸ h), render_withPcWidth, tick_withPcWidth]

theorem loadFrom_withPcWidth (a : Nat) (rom : List Byte) :
    (withPcWidth s w).loadFrom a rom = withPcWidth (s.loadFrom a rom) w := by
  induction rom generalizing s a with
  | nil => rfl
  | cons b rom ih =>
    unfold State.loadFrom
    split
    · rfl
    · exact ih (s := s.writeByte a b) (a + 1)

theorem cycle_withPcWidth (hs : 13 ≤ s.cfg.pcWidth.val) (hw : 13 ≤ w.val) {inp : CycleIn} (h : s.cycle inp = .next t) :
    (withPcWidth s w).cycle inp = .next (withPcWidth t w) := by
  obtain ⟨hq, rfl⟩ | ⟨hq, u, hu, rfl⟩ := State.cycle_eq_next h
  · simp only [State.cycle, hq, if_true]
    rfl
  · rw [← finish_withPcWidth]
    exact State.cycle_of_execute hq (execute_withPcWidth (s := s.poll inp) hs hw hu)

theorem hostMove_withPcWidth (hs : 13 ≤ s.cfg.pcWidth.val) (hw : 13 ≤ w.val) {move : HostMove}
    (h : s.hostMove move = .next t) : (withPcWidth s w).hostMove move = .next (withPcWidth t w) := by
  have hrun : (withPcWidth s w).runState = s.runState := rfl
  cases move with
  | reset => cases h; rfl
  | load rom =>
    cases h
    simp only [State.hostMove, State.hostLoad, hrun, loadFrom_withPcWidth]
    split <;> rfl
  | start =>
    cases h
    simp only [State.hostMove, State.hostStart, hrun]
    split <;> rfl
  | cycle inp =>
    simp only [State.hostMove, State.cycleIfRunning, hrun] at h ⊢
    split at h
    · rw [if_pos ‹_›]
      exact cycle_withPcWidth hs hw h
    · cases h
      rw [if_neg ‹_›]

theorem step_withPcWidth (hs : 13 ≤ s.cfg.pcWidth.val) (hw : 13 ≤ w.val) (h : step s = .next t) :
    step (withPcWidth s w) = .next (withPcWidth t w) := by
  have hrun : (withPcWidth s w).runState = s.runState := rfl
  obtain ⟨move, rest, hhost, hm⟩ | ⟨hhost, hr, hc⟩ | ⟨hhost, hr, rfl⟩ := step_eq_next h
  · rw [step_of_move (s := withPcWidth s w) hhost]
    exact hostMove_withPcWidth (s := { s with host := rest }) hs hw hm
  · rw [step_past_host (s := withPcWidth s w) hr hhost]
    exact cycle_withPcWidth (s := { s with draws := s.draws + 1 }) hs hw hc
  · have hhost' : (withPcWidth t w).host = [] := hhost
    simp only [step, State.stepOnce, hhost', hrun, hr, if_false]

end

/-- Settles O57: the sums stay below 0x2000, and the step commutes with the change of width. -/
theorem wideCountersAreAlike : Obligations.WideCountersAreAlike := by
  refine ⟨fun s hs hp => ⟨?_, ?_, fun nnn b => ?_⟩, fun s t w hs hw h => step_withPcWidth hs hw h⟩
  · exact toNat_pcKeeps_of_wide hs (by omega)
  · exact toNat_pcKeeps_of_wide hs (by omega)
  · exact pcKeeps_of_wide hs (by have := nnn.isLt; have := b.isLt; omega)

end Sys2Proof.Claims
end

section
/-! The block store of LD [I],Vx and the fetch that follows it (20_memory.md R65). -/

namespace Sys2Proof.Machine

/-- A block store that takes no fault leaves each of V0 to Vx at its address (43_index_memory.md R175). -/
theorem readByte_effect_storeRegs {s : State} {x r : Reg} (hwf : s.memWf) (hn : raised s (.storeRegs x) = none)
    (hr : r.val ≤ x.val) : (effect s (.storeRegs x)).readByte (s.i.toNat + r.val) = s.reg r := by
  obtain ⟨hfit, -⟩ := bounds_of_store (Nat.succ_pos _) hn
  have hlen := s.length_regsTo x
  have hk : r.val < (s.regsTo x).length := by omega
  calc (effect s (.storeRegs x)).readByte (s.i.toNat + r.val)
      = (s.advance.writeBytes s.i.toNat (s.regsTo x)).readByte (s.i.toNat + r.val) :=
        State.readByte_congr (by simp [effect]) (by simp [effect]) _
    _ = (s.regsTo x)[r.val] :=
        State.readByte_writeBytes (s := s.advance) hwf _ _ (by simp only [memTop]; omega) hk
    _ = s.reg r := s.getElem_regsTo x r hk

end Sys2Proof.Machine

namespace Sys2Proof.Claims

open Sys2Proof.Machine

/-- Settles O28: the store lies within memory, so the fetch takes no fault and reads the two stored registers. -/
theorem storeIsSeenByTheNextFetch : Obligations.StoreIsSeenByTheNextFetch := by
  intro x r s t hwf _ h hrun hr hpc
  obtain ⟨c, a, -, rfl⟩ | ⟨hn, rfl⟩ := exec_cases h
  · cases hrun
  · obtain ⟨hfit, -⟩ := bounds_of_store (Nat.succ_pos _) hn
    have hnext : (r + 1).val = r.val + 1 := Fin.val_add_one_of_lt' (by omega)
    have hhi := readByte_effect_storeRegs (r := r) hwf hn (by omega)
    have hlo := readByte_effect_storeRegs (r := r + 1) hwf hn (by omega)
    rw [hnext, ← Nat.add_assoc] at hlo
    rw [State.fetch_eq_ok (by omega), hpc, hhi, hlo]
    rfl

end Sys2Proof.Claims
end

section
/-! The decoded instruction of every word (30_encoding.md R83 to R86, R88): it is well-formed, and its encoding is the
word. -/

namespace Sys2Proof

variable {w : Word} {f sub : Nat}

/-! A format filled with the fields of a word of its family, and with the sub-opcode the word has, is the word. -/

theorem formatNNN_fields (hf : (fieldFamily w).toNat = f) : formatNNN f (fieldNnn w) = w := by
  have hf16 : f < 16 := hf ▸ (fieldFamily w).isLt
  rw [fieldFamily_toNat] at hf
  apply BitVec.eq_of_toNat_eq
  rw [formatNNN_toNat hf16, fieldNnn_toNat]
  omega

theorem formatXKK_fields (hf : (fieldFamily w).toNat = f) : formatXKK f (fieldX w) (fieldKk w) = w := by
  have hf16 : f < 16 := hf ▸ (fieldFamily w).isLt
  rw [fieldFamily_toNat] at hf
  apply BitVec.eq_of_toNat_eq
  rw [formatXKK_toNat hf16, fieldX_val, fieldKk_toNat]
  omega

theorem formatXYN_fields (hf : (fieldFamily w).toNat = f) :
    formatXYN f (fieldX w) (fieldY w) (fieldN w) = w := by
  have hf16 : f < 16 := hf ▸ (fieldFamily w).isLt
  rw [fieldFamily_toNat] at hf
  apply BitVec.eq_of_toNat_eq
  rw [formatXYN_toNat hf16, fieldX_val, fieldY_val, fieldN_toNat]
  omega

theorem formatXYS_fields (hf : (fieldFamily w).toNat = f) (hsub : (fieldN w).toNat = sub) :
    formatXYS f (fieldX w) (fieldY w) sub = w := by
  subst hsub
  exact formatXYN_fields hf

theorem formatXSS_fields (hf : (fieldFamily w).toNat = f) (hsub : (fieldKk w).toNat = sub) :
    formatXSS f (fieldX w) sub = w := by
  subst hsub
  exact formatXKK_fields hf

theorem format0SS_fields (hf : (fieldFamily w).toNat = 0) (hsub : (fieldKk w).toNat = sub) :
    format0SS (fieldIgnored w) sub = w := by
  subst hsub
  rw [fieldFamily_toNat] at hf
  apply BitVec.eq_of_toNat_eq
  rw [format0SS_toNat (fieldKk w).isLt, fieldIgnored_toNat, fieldKk_toNat]
  omega

/-- The instruction is a well-formed one whose word is `w`. -/
def Instr.IsOf (i : Instr) (w : Word) : Prop := i.wellFormed = true ∧ encode i = w

/-- UNKNOWN is its word's instruction when the word is of the unknown space. -/
theorem isOf_unknown (h : unknownWord w = true) : (Instr.unknown w).IsOf w := ⟨h, rfl⟩

/-- Families 0x5 and 0x9 have one row each, with the low nibble 0. -/
theorem unknownWord_of_lowNibble (hf : (fieldFamily w).toNat = 0x5 ∨ (fieldFamily w).toNat = 0x9)
    (hn : (fieldN w).toNat ≠ 0) : unknownWord w = true := by
  simp only [fieldFamily, fieldN] at hf hn
  obtain hf | hf := hf <;> simp only [unknownWord, hf, bne_iff_ne] <;> exact hn

theorem decodeFamily0_isOf (hf : (fieldFamily w).toNat = 0x0) : (decodeFamily0 w).IsOf w := by
  unfold decodeFamily0
  split
  · exact ⟨rfl, format0SS_fields hf ‹_›⟩
  · exact ⟨rfl, format0SS_fields hf ‹_›⟩
  · apply isOf_unknown
    simp_all [unknownWord, fieldFamily, fieldKk]

theorem decodeFamily8_isOf (hf : (fieldFamily w).toNat = 0x8) : (decodeFamily8 w).IsOf w := by
  unfold decodeFamily8
  split
  case h_10 =>
    have hn := (fieldN w).isLt
    apply isOf_unknown
    simp only [fieldFamily, fieldN, imp_false] at *
    simp only [unknownWord, hf, List.contains_iff_mem, List.mem_cons, List.not_mem_nil, or_false]
    omega
  all_goals exact ⟨rfl, formatXYS_fields hf ‹_›⟩

theorem decodeFamilyE_isOf (hf : (fieldFamily w).toNat = 0xE) : (decodeFamilyE w).IsOf w := by
  unfold decodeFamilyE
  split
  · exact ⟨rfl, formatXSS_fields hf ‹_›⟩
  · exact ⟨rfl, formatXSS_fields hf ‹_›⟩
  · apply isOf_unknown
    simp_all [unknownWord, fieldFamily, fieldKk]

theorem decodeFamilyF_isOf (hf : (fieldFamily w).toNat = 0xF) : (decodeFamilyF w).IsOf w := by
  unfold decodeFamilyF
  split
  case h_10 =>
    apply isOf_unknown
    simp_all [unknownWord, fieldFamily, fieldKk]
  all_goals exact ⟨rfl, formatXSS_fields hf ‹_›⟩

/-- Every word decodes to its one instruction: a format filled with the word's own fields, or UNKNOWN with a word that
no row matches. -/
theorem decode_isOf (w : Word) : (decode w).IsOf w := by
  unfold decode
  split
  case h_1 hf => exact decodeFamily0_isOf hf
  case h_6 hf =>
    split
    · exact ⟨rfl, formatXYS_fields hf ‹_›⟩
    · exact isOf_unknown (unknownWord_of_lowNibble (.inl hf) ‹_›)
  case h_9 hf => exact decodeFamily8_isOf hf
  case h_10 hf =>
    split
    · exact ⟨rfl, formatXYS_fields hf ‹_›⟩
    · exact isOf_unknown (unknownWord_of_lowNibble (.inr hf) ‹_›)
  case h_14 hf => exact ⟨rfl, formatXYN_fields hf⟩
  case h_15 hf => exact decodeFamilyE_isOf hf
  case h_16 =>
    have hlt := (fieldFamily w).isLt
    simp only [imp_false] at *
    exact decodeFamilyF_isOf (by omega)
  case h_2 hf | h_3 hf | h_11 hf | h_12 hf => exact ⟨rfl, formatNNN_fields hf⟩
  case h_4 hf | h_5 hf | h_7 hf | h_8 hf | h_13 hf => exact ⟨rfl, formatXKK_fields hf⟩

end Sys2Proof

namespace Sys2Proof.Claims

/-- Settles O5: family by family, by `decode_isOf`. -/
theorem encodeUndoesDecode : Obligations.EncodeUndoesDecode := decode_isOf

/-- Settles O3: the decoder evaluated on each word. -/
theorem printedWordsDecode : Obligations.PrintedWordsDecode :=
  ⟨rfl, rfl, rfl, rfl, rfl, rfl, rfl, rfl, rfl⟩

end Sys2Proof.Claims
end

section
/-! Every step answers a next state (30_encoding.md R85, 60_exceptions.md R226). -/

namespace Sys2Proof.Machine

theorem State.exists_cycle_eq_next (s : State) (inp : CycleIn) : ∃ t, s.cycle inp = .next t := by
  cases hq : inp.quit with
  | true => exact ⟨s.halt, by simp only [State.cycle, hq, if_true]⟩
  | false =>
    obtain ⟨u, hu⟩ := (s.poll inp).execute_eq_next
    exact ⟨u.finish, State.cycle_of_execute hq hu⟩

theorem State.exists_hostMove_eq_next (s : State) (move : HostMove) : ∃ t, s.hostMove move = .next t := by
  cases move with
  | reset => exact ⟨s.hostReset, rfl⟩
  | load rom => exact ⟨s.hostLoad rom, rfl⟩
  | start => exact ⟨s.hostStart, rfl⟩
  | cycle inp =>
    by_cases hr : s.runState = .running
    · simpa only [State.hostMove, State.cycleIfRunning, hr, if_true] using s.exists_cycle_eq_next inp
    · exact ⟨s, by simp only [State.hostMove, State.cycleIfRunning, hr, if_false]⟩

end Sys2Proof.Machine

namespace Sys2Proof.Claims

open Sys2Proof.Machine

/-- Settles O47: a step is a move of the host, a cycle with the free inputs, or nothing. -/
theorem everyStepAnswersANextState : Obligations.EveryStepAnswersANextState := by
  intro s
  cases hh : s.host with
  | cons move rest =>
    rw [step_of_move hh]
    exact State.exists_hostMove_eq_next _ move
  | nil =>
    by_cases hr : s.runState = .running
    · rw [step_past_host hr hh]
      exact State.exists_cycle_eq_next _ _
    · exact ⟨s, by simp only [step, State.stepOnce, hh, hr, if_false]⟩

end Sys2Proof.Claims
end

section
/-! The words of the unknown space decode to UNKNOWN (30_encoding.md R88, R89), and what UNKNOWN does. -/

namespace Sys2Proof

section
variable {w : Word} (h : unknownWord w = true)
include h

theorem decodeFamily0_of_unknownWord (hf : (fieldFamily w).toNat = 0x0) : decodeFamily0 w = .unknown w := by
  have hkk : [0xE0, 0xEE].contains (fieldKk w).toNat = false := by
    simp only [fieldFamily] at hf
    simpa only [unknownWord, fieldKk, hf, Bool.not_eq_true'] using h
  unfold decodeFamily0
  split
  case h_3 => rfl
  all_goals simp [*] at hkk

theorem decodeFamily8_of_unknownWord (hf : (fieldFamily w).toNat = 0x8) : decodeFamily8 w = .unknown w := by
  have hn : [0x8, 0x9, 0xA, 0xB, 0xC, 0xD, 0xF].contains (fieldN w).toNat = true := by
    simp only [fieldFamily] at hf
    simpa only [unknownWord, fieldN, hf] using h
  unfold decodeFamily8
  split
  case h_10 => rfl
  all_goals simp [*] at hn

theorem decodeFamilyE_of_unknownWord (hf : (fieldFamily w).toNat = 0xE) : decodeFamilyE w = .unknown w := by
  have hkk : [0x9E, 0xA1].contains (fieldKk w).toNat = false := by
    simp only [fieldFamily] at hf
    simpa only [unknownWord, fieldKk, hf, Bool.not_eq_true'] using h
  unfold decodeFamilyE
  split
  case h_3 => rfl
  all_goals simp [*] at hkk

theorem decodeFamilyF_of_unknownWord (hf : (fieldFamily w).toNat = 0xF) : decodeFamilyF w = .unknown w := by
  have hkk : [0x07, 0x0A, 0x15, 0x18, 0x1E, 0x29, 0x33, 0x55, 0x65].contains (fieldKk w).toNat = false := by
    simp only [fieldFamily] at hf
    simpa only [unknownWord, fieldKk, hf, Bool.not_eq_true'] using h
  unfold decodeFamilyF
  split
  case h_10 => rfl
  all_goals simp [*] at hkk

/-- Families 0x5 and 0x9 decode to UNKNOWN when the low nibble is not 0. -/
theorem lowNibble_ne_zero_of_unknownWord (hf : (fieldFamily w).toNat = 0x5 ∨ (fieldFamily w).toNat = 0x9) :
    (fieldN w).toNat ≠ 0 := by
  simp only [fieldFamily] at hf
  obtain hf | hf := hf <;> simpa only [unknownWord, fieldN, hf, bne_iff_ne] using h

/-- A word of the unknown space selects no row in its family (30_encoding.md R88). -/
theorem decode_of_unknownWord : decode w = .unknown w := by
  unfold decode
  split
  case h_1 hf => exact decodeFamily0_of_unknownWord h hf
  case h_6 hf => exact if_neg (lowNibble_ne_zero_of_unknownWord h (.inl hf))
  case h_9 hf => exact decodeFamily8_of_unknownWord h hf
  case h_10 hf => exact if_neg (lowNibble_ne_zero_of_unknownWord h (.inr hf))
  case h_15 hf => exact decodeFamilyE_of_unknownWord h hf
  case h_16 =>
    have hlt := (fieldFamily w).isLt
    simp only [imp_false] at *
    exact decodeFamilyF_of_unknownWord h (by omega)
  all_goals simp_all [unknownWord, fieldFamily]

end

end Sys2Proof

namespace Sys2Proof.Claims

open Sys2Proof.Machine

/-- Settles O35: UNKNOWN is an advance and an emitted event. -/
theorem unknownOnlyEmitsItsEvent : Obligations.UnknownOnlyEmitsItsEvent := fun w s =>
  ⟨decode_of_unknownWord, s.advance.emit (.unknown w s.pc), rfl, rfl, rfl,
    ((Frame.refl s _).advance (by simp)).emit (by simp) _⟩

end Sys2Proof.Claims
end

section
/-! What a cycle of a Running machine can end in, and what render and tick add to a frame (40_cycle_and_fetch.md R102 to
R109). -/

namespace Sys2Proof.Machine

/-- What the validation of reads reports is an address above memory (20_memory.md R53). -/
theorem firstFault_readFault_eq_some {a n b : Nat} {c : FaultCause} (h : firstFault readFault a n = some (c, b)) :
    c = .memRange := by
  obtain ⟨-, -, hf, -⟩ := firstFault_eq_some h
  exact (readFault_eq_some hf).1

/-- The fetch above 0xFFE reports the first of the two addresses that is above 0xFFF (40_cycle_and_fetch.md R106). -/
theorem firstFault_fetch {a : Nat} (h : a > 0xFFE) :
    firstFault readFault a 2 = some (.memRange, if a > 0xFFF then a else a + 1) := by
  by_cases ha : a > 0xFFF
  · simp only [firstFault, readFault, memTop, ha, if_true]
  · have hnext : a + 1 > 0xFFF := by omega
    simp only [firstFault, readFault, memTop, ha, hnext, if_true, if_false]

theorem State.execute_of_fetch_fault {s : State} {c : FaultCause} {a : Nat}
    (h : firstFault readFault s.pc.toNat 2 = some (c, a)) : s.execute = .next (s.takeFault c a) := by
  have hfetch : s.fetch = .error (c, a) := by rw [State.fetch, h]
  rw [State.execute, hfetch]

theorem State.execute_of_fetch {s : State} {w : Word} (h : s.fetch = .ok w) : s.execute = exec (decode w) s := by
  rw [State.execute, h]

theorem State.cycle_of_quit {s : State} {inp : CycleIn} (h : inp.quit = true) : s.cycle inp = .next s.halt :=
  if_pos h

/-- What an instruction raises is a fault (60_exceptions.md R221). -/
theorem cause_ne_none_of_raised {s : State} {i : Instr} {c : FaultCause} {a : Nat} (h : raised s i = some (c, a)) :
    c ≠ .none := by
  rintro rfl
  exact raised_fits h

/-- A cycle of a Running machine halts on quit, enters Faulted with the polled state otherwise as it was, or runs an
instruction's effect, render and tick. -/
theorem State.cycle_outcome {s t : State} {inp : CycleIn} (hrun : s.runState = .running) (h : s.cycle inp = .next t) :
    (inp.quit = true ∧ t = s.halt) ∨
    (inp.quit = false ∧ ∃ c a, c ≠ .none ∧ t = (s.poll inp).takeFault c a) ∨
    (inp.quit = false ∧ ∃ w, s.fetch = .ok w ∧ t = (effect (s.poll inp) (decode w)).render.tick) := by
  obtain hquit | ⟨hq, u, hu, rfl⟩ := State.cycle_eq_next h
  · exact .inl hquit
  obtain ⟨c, a, hf, rfl⟩ | ⟨w, hw, ⟨c, a, hr, rfl⟩ | ⟨-, rfl⟩⟩ := State.execute_cases hu
  · have hc : c ≠ .none := by rw [firstFault_readFault_eq_some hf]; decide
    exact .inr (.inl ⟨hq, c, a, hc, State.finish_of_faulted rfl⟩)
  · exact .inr (.inl ⟨hq, c, a, cause_ne_none_of_raised hr, State.finish_of_faulted rfl⟩)
  · exact .inr (.inr ⟨hq, w, hw, State.finish_eq (by simp [hrun])⟩)

/-- The events of render and tick: `present` when a repaint is owed, then `tone_stop` when the tick takes ST from 1 to 0
(40_cycle_and_fetch.md R107, R108). -/
theorem State.events_render_tick (u : State) :
    u.render.tick.events = u.events ++ (if u.dirty then [.present u.fb] else []) ++
      (if u.inp.tick = true ∧ u.st.toNat = 1 then [.toneStop] else []) := by
  have hst : u.st = 1 ↔ u.st.toNat = 1 := BitVec.toNat_inj.symm
  simp only [State.tick_events, State.render_events, State.render_inp, State.render_st, hst]
  split_ifs <;> simp

/-- The sound timer after render and tick. -/
theorem State.st_render_tick (u : State) : u.render.tick.st.toNat = u.st.toNat - if u.inp.tick then 1 else 0 := by
  cases hu : u.inp.tick <;> simp [hu, tickDown_toNat]

end Sys2Proof.Machine

namespace Sys2Proof.Claims

open Sys2Proof.Machine

section
variable {s t : State} {may : Part → Prop}

theorem Frame.render (h : Frame s t may) (hd : may .dirty) (he : may .events) : Frame s t.render may := by
  rw [State.render_eq]
  intro p hn
  cases p with
  | dirty => exact absurd hd hn
  | events => exact absurd he hn
  | _ => exact h _ hn

theorem Frame.tick (h : Frame s t may) (hd : may .dt) (hs : may .st) (he : may .events) : Frame s t.tick may := by
  cases htick : t.inp.tick with
  | false => rwa [State.tick_eq_of_not htick]
  | true =>
    rw [State.tick_eq_of_tick htick]
    intro p hn
    cases p with
    | dt => exact absurd hd hn
    | st => exact absurd hs hn
    | events => exact absurd he hn
    | _ => exact h _ hn

theorem Frame.halt (h : Frame s t may) (hr : may .runState) : Frame s t.halt may := by
  intro p hn
  cases p with
  | runState => exact absurd hr hn
  | _ => exact h _ hn

theorem Frame.poll (h : Frame s t may) (hk : may .keys) (hi : may .inp) (inp : CycleIn) :
    Frame s (t.poll inp) may := by
  intro p hn
  cases p with
  | keys => exact absurd hk hn
  | inp => exact absurd hi hn
  | _ => exact h _ hn

/-- A move of the host is used up. -/
theorem Frame.withHost (h : Frame s t may) (hh : may .host) (rest : List HostMove) :
    Frame s { t with host := rest } may := by
  intro p hn
  cases p with
  | host => exact absurd hh hn
  | _ => exact h _ hn

end

/-- The execute phase of a host-driven cycle that does not quit, then what follows it, is the step. -/
theorem step_of_execute {s u : State} {inp : CycleIn} {rest : List HostMove} (hrun : s.runState = .running)
    (hhost : s.host = .cycle inp :: rest) (hq : inp.quit = false) (hu : (polled s inp rest).execute = .next u) :
    step s = .next u.finish := by
  rw [step_of_cycle hrun hhost]
  exact State.cycle_of_execute (s := { s with host := rest }) hq hu

/-- `wordAtPc` is the word that the execute phase fetches. -/
theorem fetch_polled {s : State} (inp : CycleIn) (rest : List HostMove) (hpc : s.pc.toNat ≤ 0xFFE) :
    (polled s inp rest).fetch = .ok (wordAtPc s) :=
  State.fetch_eq_ok (s := polled s inp rest) hpc

/-- Past the end of the host's moves the poll leaves none. -/
theorem poll_past_host {s : State} {inp : CycleIn} (hhost : s.host = []) : s.poll inp = polled s inp [] := by
  rw [polled, ← hhost]
  rfl

/-- No row of the access matrix has the key set. -/
theorem effect_keys (s : State) (i : Instr) : (effect s i).keys = s.keys := by
  refine frame_effect s i .keys ?_
  cases i <;> simp [mayWrite, bytesFrom]

/-- The inputs of the cycle are those polled through the whole execute phase. -/
theorem execute_inp {s t : State} (h : s.execute = .next t) : t.inp = s.inp := by
  obtain ⟨c, a, -, rfl⟩ | ⟨w, -, ⟨c, a, -, rfl⟩ | ⟨-, rfl⟩⟩ := State.execute_cases h
  · rfl
  · rfl
  · exact effect_inp s _

/-- Settles O36: the bytes at `pc` are what the execute phase fetches, from the host's inputs or the free ones. -/
theorem stepRunsTheDecodedInstruction : Obligations.StepRunsTheDecodedInstruction := by
  intro s i hrun hpc _ hdec
  have hi : decode (wordAtPc s) = i := (Prod.mk.inj (Except.ok.inj hdec)).1
  have hexec (p : State) (hp : p.fetch = .ok (wordAtPc s)) {u : State} (hu : exec i p = .next u) :
      p.execute = .next u := by rw [State.execute_of_fetch hp, hi, hu]
  refine ⟨fun inp rest hhost hq => ?_, fun hhost => ?_⟩
  · obtain ⟨u, hu⟩ := exec_eq_next i (polled s inp rest)
    rw [hu]
    exact step_of_execute hrun hhost hq (hexec _ (fetch_polled inp rest hpc) hu)
  · rw [step_past_host hrun hhost]
    cases hq : (Config.freeInput s.draws).quit with
    | true => exact State.cycle_of_quit hq
    | false =>
      obtain ⟨u, hu⟩ := exec_eq_next i (polled { s with draws := s.draws + 1 } (Config.freeInput s.draws) [])
      rw [hu]
      refine State.cycle_of_execute (s := { s with draws := s.draws + 1 }) hq ?_
      rw [poll_past_host (s := { s with draws := s.draws + 1 }) hhost]
      exact hexec _ (fetch_polled (s := { s with draws := s.draws + 1 }) _ [] hpc) hu

/-- Settles O37: the phases after the execute phase, by the fields they write and their frames. -/
theorem cycleRendersThenTicks : Obligations.CycleRendersThenTicks := by
  intro s t inp rest hrun hhost hq hexec hok
  have hinp : t.inp = inp := execute_inp hexec
  refine ⟨t.render.tick, ?_, by simp, ?_, ?_, ?_, ?_⟩
  · rw [← State.finish_eq hok]
    exact step_of_execute hrun hhost hq hexec
  · rw [dt_render_tick, hinp]
  · rw [State.st_render_tick, hinp]
  · rw [State.events_render_tick, hinp]
  · exact ((Frame.refl t _).render (by simp) (by simp)).tick (by simp) (by simp) (by simp)

/-- Settles O38: the cycle is `State.halt`. -/
theorem quitOnlyHalts : Obligations.QuitOnlyHalts := by
  intro s inp rest hrun hhost hq
  refine ⟨State.halt { s with host := rest }, ?_, rfl, rfl, ?_⟩
  · rw [step_of_cycle hrun hhost]
    exact State.cycle_of_quit hq
  · exact ((Frame.refl s _).withHost (by simp) rest).halt (by simp)

/-- Settles O39: the fetch reports `pc` or the address after it, and its fault is fault entry. -/
theorem fetchAboveMemoryFaults : Obligations.FetchAboveMemoryFaults := by
  intro s inp rest hrun hhost hq hpc
  have hexec := State.execute_of_fetch_fault (s := polled s inp rest) (firstFault_fetch hpc)
  refine ⟨_, (step_of_execute hrun hhost hq hexec).trans (congrArg _ (State.finish_of_faulted rfl)), ?_⟩
  have hlt := s.pc.isLt
  exact faultEntry_takeFault _ _ (by split_ifs <;> omega)

/-- Settles O40: of the ways a cycle ends, only fault entry on the polled state is Faulted. -/
theorem faultingCycleIsPrecise : Obligations.FaultingCycleIsPrecise := by
  intro s t inp rest hrun hhost hstep hfault
  rw [step_of_cycle hrun hhost] at hstep
  obtain ⟨-, rfl⟩ | ⟨-, c, a, hc, rfl⟩ | ⟨-, w, -, rfl⟩ := State.cycle_outcome (s := { s with host := rest }) hrun hstep
  · cases hfault
  · refine ⟨rfl, rfl, hc, rfl, rfl, rfl, ?_⟩
    exact (((Frame.refl s _).withHost (by simp) rest).poll (by simp) (by simp) inp).takeFault (by simp) (by simp) c a
  · simp [hrun] at hfault

/-- Settles O60: the fetch and the effect of an instruction leave the polled key set as it is. -/
theorem pollReplacesTheKeySet : Obligations.PollReplacesTheKeySet := by
  refine fun s inp => ⟨rfl, (Frame.refl s _).poll (by simp) (by simp) inp, fun hq w hw => ?_⟩
  obtain ⟨u, hu⟩ := exec_eq_next (decode w) (s.poll inp)
  have hfetch : (s.poll inp).fetch = .ok w := hw
  refine ⟨u, hu, State.cycle_of_execute hq ((State.execute_of_fetch hfetch).trans hu), fun hok => ?_⟩
  obtain ⟨c, a, -, rfl⟩ | ⟨-, rfl⟩ := exec_cases hu
  · exact absurd rfl hok
  · rw [State.finish_eq hok, State.tick_keys, State.render_keys, effect_keys]
    rfl

end Sys2Proof.Claims
end

section
/-! The events of a cycle: which instructions owe a repaint (40_cycle_and_fetch.md R107). -/

namespace Sys2Proof.Claims

open Sys2Proof.Machine

/-- The access matrix at `dirty`: only CLS and DRW write it (10_state.md R33). -/
theorem effect_dirty_of_not_drawing (s : State) (i : Instr) (hcls : ∀ ign, i ≠ .cls ign)
    (hdrw : ∀ x y n, i ≠ .drw x y n) : (effect s i).dirty = s.dirty := by
  refine frame_effect s i .dirty ?_
  cases i with
  | cls ign => exact absurd rfl (hcls ign)
  | drw x y n => exact absurd rfl (hdrw x y n)
  | _ => simp [mayWrite, bytesFrom]

/-- After an instruction entered with no repaint owed, one is owed exactly when it was CLS or DRW. -/
theorem effect_dirty_iff {s : State} (hd : s.dirty = false) (i : Instr) :
    (effect s i).dirty = true ↔ (∃ ign, i = .cls ign) ∨ ∃ x y n, i = .drw x y n := by
  cases i with
  | cls ign => exact iff_of_true rfl (.inl ⟨ign, rfl⟩)
  | drw x y n => exact iff_of_true rfl (.inr ⟨x, y, n, rfl⟩)
  | _ => simp [effect_dirty_of_not_drawing, hd]

/-- The access matrix at the events: only UNKNOWN writes them. -/
theorem effect_events_of_not_unknown (s : State) (i : Instr) (hi : ∀ w, i ≠ .unknown w) :
    (effect s i).events = s.events := by
  refine frame_effect s i .events ?_
  cases i with
  | unknown w => exact absurd rfl (hi w)
  | _ => simp [mayWrite, bytesFrom]

/-- The execute phase emits no `present`. -/
theorem effect_events (s : State) (i : Instr) :
    ∃ es, (effect s i).events = s.events ++ es ∧ ∀ g, Event.present g ∉ es := by
  cases i with
  | unknown w => exact ⟨[.unknown w s.pc], rfl, by simp⟩
  | _ => exact ⟨[], by simp [effect_events_of_not_unknown], by simp⟩

/-- An instruction, render and tick emit `present` exactly when the instruction leaves a repaint owed. -/
theorem present_emitted_iff (s : State) (i : Instr) :
    (∃ g, Event.present g ∈ (effect s i).render.tick.events.drop s.events.length) ↔ (effect s i).dirty = true := by
  obtain ⟨es, hes, hno⟩ := effect_events s i
  rw [State.events_render_tick, hes, List.append_assoc, List.append_assoc, List.drop_left]
  cases (effect s i).dirty <;> simp [hno]

/-- Settles O48: a fault emits nothing, and otherwise the repaint owed tells CLS and DRW. -/
theorem presentExactlyAfterDrawing : Obligations.PresentExactlyAfterDrawing := by
  intro s t inp rest hrun hhost hq hpc hd hstep
  rw [step_of_cycle hrun hhost] at hstep
  obtain ⟨hq', -⟩ | ⟨-, c, a, -, rfl⟩ | ⟨-, w, hw, rfl⟩ := State.cycle_outcome (s := { s with host := rest }) hrun hstep
  · rw [hq] at hq'; cases hq'
  · simp
  · cases (fetch_polled inp rest hpc).symm.trans hw
    have hpresent := present_emitted_iff (polled s inp rest) (decode (wordAtPc s))
    rw [effect_dirty_iff (s := polled s inp rest) hd] at hpresent
    refine hpresent.trans (iff_and_self.2 fun _ => ?_)
    simp [hrun]

end Sys2Proof.Claims
end

section
/-! The transitions of the run state (40_cycle_and_fetch.md R100). -/

namespace Sys2Proof.Machine

/-- A host move that drives a cycle runs it or does nothing (40_cycle_and_fetch.md R100). -/
theorem State.cycleIfRunning_eq_next {s t : State} {inp : CycleIn} (h : s.cycleIfRunning inp = .next t) :
    (s.runState = .running ∧ s.cycle inp = .next t) ∨ t = s := by
  unfold State.cycleIfRunning at h
  split at h
  · exact .inl ⟨‹_›, h⟩
  · exact .inr (Host.Outcome.next.inj h).symm

theorem State.cycleIfRunning_of_not_running {s : State} (h : s.runState ≠ .running) (inp : CycleIn) :
    s.cycleIfRunning inp = .next s := if_neg h

theorem State.hostLoad_of_not_idle {s : State} (h : s.runState ≠ .idle) (rom : List Byte) : s.hostLoad rom = s :=
  if_neg h

theorem State.hostStart_of_not_idle {s : State} (h : s.runState ≠ .idle) : s.hostStart = s := if_neg h

/-- The load port changes the run state only from Idle to Faulted, by a ROM that overruns memory
(70_reset_and_hazards.md R264). -/
theorem State.runState_hostLoad {s : State} {rom : List Byte} (h : (s.hostLoad rom).runState ≠ s.runState) :
    s.runState = .idle ∧ (s.hostLoad rom).runState = .faulted ∧ 3584 < rom.length := by
  by_cases hidle : s.runState = .idle
  · rw [State.hostLoad, if_pos hidle] at h ⊢
    by_cases hfit : 0x200 + rom.length ≤ 0x1000
    · rw [State.loadFrom_fits _ _ _ hfit] at h
      exact absurd (by simp) h
    · rw [State.loadFrom_long _ _ _ (by decide) (by simpa [progBase] using hfit)]
      exact ⟨hidle, rfl, by omega⟩
  · exact absurd (by rw [State.hostLoad_of_not_idle hidle]) h

/-- `start` changes the run state only from Idle to Running (70_reset_and_hazards.md R265). -/
theorem State.runState_hostStart {s : State} (h : s.hostStart.runState ≠ s.runState) :
    s.runState = .idle ∧ s.hostStart.runState = .running := by
  by_cases hidle : s.runState = .idle
  · exact ⟨hidle, by rw [State.hostStart, if_pos hidle]⟩
  · exact absurd (by rw [State.hostStart_of_not_idle hidle]) h

/-- A cycle changes the run state only by quit or by a fault (40_cycle_and_fetch.md R103, R109). -/
theorem State.runState_cycle {s t : State} {inp : CycleIn} (hrun : s.runState = .running)
    (h : s.cycle inp = .next t) (hne : t.runState ≠ s.runState) :
    (t.runState = .halted ∧ inp.quit = true) ∨ (t.runState = .faulted ∧ inp.quit = false) := by
  obtain ⟨hq, rfl⟩ | ⟨hq, c, a, -, rfl⟩ | ⟨-, w, -, rfl⟩ := State.cycle_outcome hrun h
  · exact .inl ⟨rfl, hq⟩
  · exact .inr ⟨rfl, hq⟩
  · exact absurd (by simp) hne

end Sys2Proof.Machine

namespace Sys2Proof.Claims

open Sys2Proof.Machine

/-- Settles O45: what each move of the host, or a cycle with the free inputs, does to the run state. -/
theorem runStateTransitions : Obligations.RunStateTransitions := by
  intro s t hstep hne
  obtain ⟨move, rest, hhost, hmove⟩ | ⟨hhost, hrun, hcycle⟩ | ⟨-, -, rfl⟩ := step_eq_next hstep
  · cases move with
    | reset =>
      cases hmove
      exact .inl ⟨rfl, by rw [hhost]; rfl⟩
    | start =>
      cases hmove
      obtain ⟨hidle, ht⟩ := State.runState_hostStart (s := { s with host := rest }) hne
      exact .inr (.inl ⟨hidle, ht, by rw [hhost]; rfl⟩)
    | load rom =>
      cases hmove
      obtain ⟨hidle, ht, hlong⟩ := State.runState_hostLoad (s := { s with host := rest }) hne
      exact .inr (.inr (.inl ⟨hidle, ht, rom, by rw [hhost]; rfl, hlong⟩))
    | cycle inp =>
      have hin : cycleInput s = some inp := by rw [cycleInput, hhost]
      obtain ⟨hrun, hcycle⟩ | rfl := State.cycleIfRunning_eq_next hmove
      · exact .inr (.inr (.inr ((State.runState_cycle (s := { s with host := rest }) hrun hcycle hne).imp
          (fun ⟨ht, hq⟩ => ⟨hrun, ht, inp, hin, hq⟩) fun ⟨ht, hq⟩ => ⟨hrun, ht, inp, hin, hq⟩)))
      · exact absurd rfl hne
  · have hin : cycleInput s = some (Config.freeInput s.draws) := by rw [cycleInput, hhost]
    exact .inr (.inr (.inr ((State.runState_cycle (s := { s with draws := s.draws + 1 }) hrun hcycle hne).imp
      (fun ⟨ht, hq⟩ => ⟨hrun, ht, _, hin, hq⟩) fun ⟨ht, hq⟩ => ⟨hrun, ht, _, hin, hq⟩)))
  · exact absurd rfl hne

/-- Settles O46: the load port and `start` do nothing outside Idle, and no cycle runs outside Running. -/
theorem nothingChangesOutsideRunning : Obligations.NothingChangesOutsideRunning := by
  intro s hrun hreset hidle
  cases hhost : s.host with
  | nil =>
    refine ⟨s, ?_, hhost, Frame.refl s _⟩
    simp only [step, State.stepOnce, hhost, hrun, if_false]
  | cons move rest =>
    refine ⟨{ s with host := rest }, ?_, rfl, (Frame.refl s _).withHost (by simp) rest⟩
    rw [step_of_move hhost]
    simp only [hhost, List.head?_cons, ne_eq, Option.some.injEq] at hreset hidle
    cases move with
    | reset => exact absurd rfl hreset
    | start =>
      have hn : s.runState ≠ .idle := fun e => (hidle e).1 rfl
      exact congrArg _ (State.hostStart_of_not_idle (s := { s with host := rest }) hn)
    | load rom =>
      have hn : s.runState ≠ .idle := fun e => (hidle e).2 rom rfl
      exact congrArg _ (State.hostLoad_of_not_idle (s := { s with host := rest }) hn rom)
    | cycle inp => exact State.cycleIfRunning_of_not_running (s := { s with host := rest }) hrun inp

end Sys2Proof.Claims
end

section
/-! The fields of a formatted word, and the instruction it decodes to (30_encoding.md R81 to R86). -/

namespace Sys2Proof

section
variable {f : Nat} (hf : f < 16)
include hf

theorem fieldFamily_formatNNN (nnn : Addr12) : (fieldFamily (formatNNN f nnn)).toNat = f := by
  have := nnn.isLt
  rw [fieldFamily_toNat, formatNNN_toNat hf]
  omega

theorem fieldNnn_formatNNN (nnn : Addr12) : fieldNnn (formatNNN f nnn) = nnn := by
  have := nnn.isLt
  apply BitVec.eq_of_toNat_eq
  rw [fieldNnn_toNat, formatNNN_toNat hf]
  omega

theorem fieldFamily_formatXKK (x : Reg) (kk : Byte) : (fieldFamily (formatXKK f x kk)).toNat = f := by
  have := kk.isLt
  rw [fieldFamily_toNat, formatXKK_toNat hf]
  omega

theorem fieldX_formatXKK (x : Reg) (kk : Byte) : fieldX (formatXKK f x kk) = x := by
  have := kk.isLt
  apply Fin.ext
  rw [fieldX_val, formatXKK_toNat hf]
  omega

theorem fieldKk_formatXKK (x : Reg) (kk : Byte) : fieldKk (formatXKK f x kk) = kk := by
  have := kk.isLt
  apply BitVec.eq_of_toNat_eq
  rw [fieldKk_toNat, formatXKK_toNat hf]
  omega

theorem fieldFamily_formatXYN (x y : Reg) (n : Nibble) : (fieldFamily (formatXYN f x y n)).toNat = f := by
  have := n.isLt
  rw [fieldFamily_toNat, formatXYN_toNat hf]
  omega

theorem fieldX_formatXYN (x y : Reg) (n : Nibble) : fieldX (formatXYN f x y n) = x := by
  have := n.isLt
  apply Fin.ext
  rw [fieldX_val, formatXYN_toNat hf]
  omega

theorem fieldY_formatXYN (x y : Reg) (n : Nibble) : fieldY (formatXYN f x y n) = y := by
  have := n.isLt
  apply Fin.ext
  rw [fieldY_val, formatXYN_toNat hf]
  omega

theorem fieldN_formatXYN (x y : Reg) (n : Nibble) : fieldN (formatXYN f x y n) = n := by
  have := n.isLt
  apply BitVec.eq_of_toNat_eq
  rw [fieldN_toNat, formatXYN_toNat hf]
  omega

end

/-- A sub-opcode in the low nibble is an `n` (30_encoding.md R81). -/
theorem formatXYS_eq_formatXYN (f : Nat) {sub : Nat} (hs : sub < 16) (x y : Reg) :
    formatXYS f x y sub = formatXYN f x y (BitVec.ofNat 4 sub) := by
  rw [formatXYS, formatXYN, BitVec.toNat_ofNat, Nat.mod_eq_of_lt hs]

/-- A sub-opcode in the low byte is a `kk`. -/
theorem formatXSS_eq_formatXKK (f : Nat) {sub : Nat} (hs : sub < 256) (x : Reg) :
    formatXSS f x sub = formatXKK f x (BitVec.ofNat 8 sub) := by
  rw [formatXSS, formatXKK, BitVec.toNat_ofNat, Nat.mod_eq_of_lt hs]

theorem fieldFamily_format0SS (ign : Nibble) {sub : Nat} (hs : sub < 256) :
    (fieldFamily (format0SS ign sub)).toNat = 0 := by
  have := ign.isLt
  rw [fieldFamily_toNat, format0SS_toNat hs]
  omega

theorem fieldIgnored_format0SS (ign : Nibble) {sub : Nat} (hs : sub < 256) :
    fieldIgnored (format0SS ign sub) = ign := by
  have := ign.isLt
  apply BitVec.eq_of_toNat_eq
  rw [fieldIgnored_toNat, format0SS_toNat hs]
  omega

theorem fieldKk_format0SS (ign : Nibble) {sub : Nat} (hs : sub < 256) :
    (fieldKk (format0SS ign sub)).toNat = sub := by
  rw [fieldKk_toNat, format0SS_toNat hs]
  omega

/-- Decoding reads the family and the fields that encoding wrote (30_encoding.md R83). -/
theorem decode_encode {i : Instr} (h : i.wellFormed = true) : decode (encode i) = i := by
  cases i with
  | cls | ret => simp [encode, decode, decodeFamily0, fieldFamily_format0SS, fieldIgnored_format0SS, fieldKk_format0SS]
  | jp | call | ldI | jpV0 => simp [encode, decode, fieldFamily_formatNNN, fieldNnn_formatNNN]
  | seImm | sneImm | ldImm | addImm | rnd =>
    simp [encode, decode, fieldFamily_formatXKK, fieldX_formatXKK, fieldKk_formatXKK]
  | drw => simp [encode, decode, fieldFamily_formatXYN, fieldX_formatXYN, fieldY_formatXYN, fieldN_formatXYN]
  | seReg | sneReg | ldReg | orReg | andReg | xorReg | addReg | sub | subn | shr | shl =>
    simp [encode, decode, decodeFamily8, formatXYS_eq_formatXYN, fieldFamily_formatXYN, fieldX_formatXYN,
      fieldY_formatXYN, fieldN_formatXYN]
  | skp | sknp | ldVxDt | ldDtVx | ldStVx | ldVxK | addI | ldF | ldB | storeRegs | loadRegs =>
    simp [encode, decode, decodeFamilyE, decodeFamilyF, formatXSS_eq_formatXKK, fieldFamily_formatXKK,
      fieldX_formatXKK, fieldKk_formatXKK]
  | unknown w => exact decode_of_unknownWord h

/-- Families 0x5 and 0x9 hold one instruction each: a low nibble other than 0 is UNKNOWN (30_encoding.md R88). -/
theorem decode_formatXYS_unknown {f sub : Nat} (hf : f = 0x5 ∨ f = 0x9) (h1 : 1 ≤ sub) (h15 : sub ≤ 15) (x y : Reg) :
    decode (formatXYS f x y sub) = .unknown (formatXYS f x y sub) := by
  have hf16 : f < 16 := by omega
  have hs : sub < 16 := by omega
  apply decode_of_unknownWord
  apply unknownWord_of_lowNibble <;> rw [formatXYS_eq_formatXYN f hs]
  · rwa [fieldFamily_formatXYN hf16]
  · rw [fieldN_formatXYN hf16, BitVec.toNat_ofNat]
    omega

end Sys2Proof

namespace Sys2Proof.Claims

/-- The word of a well-formed instruction decodes to it. -/
theorem decodesTo_of_encode {n : Nat} {i : Instr} (he : encode i = BitVec.ofNat 16 n) (h : i.wellFormed = true) :
    decodesTo n i := by
  rw [decodesTo, ← he, decode_encode h]

end Sys2Proof.Claims
end

section
/-! Control transfer (41_control_flow.md): what a jump, a skip, a call and a return leave in `pc`, `sp` and the stack. -/

namespace Sys2Proof.Machine

/-- CALL with room on the stack takes no fault. -/
theorem exec_call_of_room (nnn : Addr12) {s : State} {j : Fin 16} (hj : s.sp.val = j.val) :
    exec (.call nnn) s = .next (s.pushCall nnn.toNat) := by
  have hroom : s.sp.val ≠ stackDepth := by simp only [stackDepth]; omega
  exact exec_of_not_raised (if_neg hroom)

/-- RET with an entry on the stack takes no fault. -/
theorem exec_ret_of_entry (ign : Nibble) {s : State} {j : Fin 16} (hj : s.sp.val = j.val + 1) :
    exec (.ret ign) s = .next s.popCall := by
  have hentry : s.sp ≠ 0 := by rw [ne_eq, ← Fin.val_inj, hj]; exact Nat.succ_ne_zero _
  exact exec_of_not_raised (if_neg hentry)

theorem State.sp_pushCall {s : State} {j : Fin 16} (hj : s.sp.val = j.val) (v : Nat) :
    (s.pushCall v).sp.val = j.val + 1 := by
  have hsp : (s.pushCall v).sp.val = min (s.sp.val + 1) 16 := rfl
  omega

theorem State.entry_pushCall {s : State} {j : Fin 16} (hj : s.sp.val = j.val) (v : Nat) :
    (s.pushCall v).stack[j] = s.nextPc := by
  simp [hj]

theorem State.sp_popCall {s : State} {j : Fin 16} (hj : s.sp.val = j.val + 1) : s.popCall.sp.val = j.val := by
  have hsp : s.popCall.sp.val = s.sp.val - 1 := rfl
  omega

theorem State.topOfStack_eq {s : State} {j : Fin 16} (hj : s.sp.val = j.val + 1) : s.topOfStack = s.stack[j] := by
  simp [State.topOfStack, hj]

end Sys2Proof.Machine

namespace Sys2Proof.Claims

open Sys2Proof.Machine

/-- A value of 16 bits is written to `pc` with no more lost than PC_WIDTH loses (10_state.md R24). -/
theorem toNat_keepPc_eq_pcKeeps (c : Config) {v : Nat} (hv : v < 65536) : (keepPc c v).toNat = pcKeeps c v := by
  rw [keepPc_toNat]
  exact Nat.mod_eq_of_lt ((Nat.mod_le _ _).trans_lt hv)

/-- An instruction that writes a target of 16 bits to `pc` and nothing else (41_control_flow.md R120). -/
theorem completes_of_setPc {i : Instr} {s : State} {v : Nat} (he : exec i s = .next (s.setPc v)) (hv : v < 65536) :
    ∃ t, exec i s = .next t ∧ t.pc.toNat = pcKeeps s.cfg v ∧ Frame s t (· ∈ [Part.pc]) :=
  ⟨s.setPc v, he, toNat_keepPc_eq_pcKeeps s.cfg hv, (Frame.refl s _).setPc (by simp) v⟩

/-- A skip, by the condition it tests (41_control_flow.md R120, R124). -/
theorem completes_of_skipIf {i : Instr} {s : State} {taken : Bool} {p : Prop} [Decidable p]
    (he : exec i s = .next (s.skipIf taken)) (hp : taken = true ↔ p) :
    ∃ t, exec i s = .next t ∧ t.pc = (if p then skipOf s else nextOf s) ∧ Frame s t (· ∈ [Part.pc]) :=
  ⟨s.skipIf taken, he, (s.skipIf_pc taken).trans (if_congr hp rfl rfl), frame_skipIf s taken⟩

theorem beq_iff_toNat_eq (a b : Byte) : (a == b) = true ↔ a.toNat = b.toNat :=
  beq_iff_eq.trans BitVec.toNat_inj.symm

theorem bne_iff_toNat_ne (a b : Byte) : (a != b) = true ↔ a.toNat ≠ b.toNat :=
  bne_iff_ne.trans BitVec.toNat_ne_iff_ne.symm

/-- RET on a stack that is not empty (41_control_flow.md R121). -/
theorem ret_pops (ign : Nibble) {s : State} {j : Fin 16} (hj : s.sp.val = j.val + 1) :
    ∃ t, exec (.ret ign) s = .next t ∧ t.sp.val = j.val ∧ t.pc = s.stack[j] ∧ Frame s t (· ∈ [Part.sp, .pc]) :=
  ⟨s.popCall, exec_ret_of_entry ign hj, State.sp_popCall hj, State.topOfStack_eq hj,
    (Frame.refl s _).popCall (by simp) (by simp)⟩

/-- Settles O10: the entry under the depth that CALL leaves is `next`, and RET pops that entry. -/
theorem returnComesBackAfterTheCall : Obligations.ReturnComesBackAfterTheCall := by
  intro nnn ign s t u j hj hcall husp hentry
  obtain rfl : s.pushCall nnn.toNat = t := Host.Outcome.next.inj ((exec_call_of_room nnn hj).symm.trans hcall)
  have huj : u.sp.val = j.val + 1 := by rw [husp, State.sp_pushCall hj]
  obtain ⟨w, hret, hsp, hpc, hframe⟩ := ret_pops ign huj
  refine ⟨w, hret, ?_, Fin.ext (hsp.trans hj.symm), hframe⟩
  calc w.pc = u.stack[j] := hpc
    _ = (s.pushCall nnn.toNat).stack[j] := hentry
    _ = nextOf s := State.entry_pushCall hj _

/-- Settles O8: the pop of the entry below `sp`, and fault entry on the empty stack. -/
theorem returnPopsTheStack : Obligations.ReturnPopsTheStack := fun ign s =>
  ⟨decodesTo_of_encode rfl rfl, fun _ hj => ret_pops ign hj,
    fun hempty => ⟨_, exec_of_raised (if_pos hempty), faultEntry_takeFault s _ (by decide)⟩⟩

/-- Settles O9: the push of `next` at `sp`, and fault entry on the full stack. -/
theorem callPushesTheNextAddress : Obligations.CallPushesTheNextAddress := by
  intro nnn s
  refine ⟨decodesTo_of_encode rfl rfl, fun j hj => ?_,
    fun hfull => ⟨_, exec_of_raised (if_pos hfull), faultEntry_takeFault s _ (by decide)⟩⟩
  have hnnn : nnn.toNat < 65536 := by omega
  refine ⟨s.pushCall nnn.toNat, exec_call_of_room nnn hj, State.entry_pushCall hj _, State.sp_pushCall hj _,
    toNat_keepPc_eq_pcKeeps s.cfg hnnn, (Frame.refl s _).pushCall (by simp) (by simp) (fun k hk => ?_) _⟩
  obtain rfl : k = j := Fin.ext (hk.trans hj)
  simp

/-- Settles O11: a 12-bit target is written to `pc`. -/
theorem jumpGoesToItsAddress : Obligations.JumpGoesToItsAddress := fun _ _ =>
  ⟨decodesTo_of_encode rfl rfl, completes_of_setPc rfl (by omega)⟩

/-- Settles O12: the sum of a 12-bit address and a byte is written to `pc`. -/
theorem computedJumpAddsV0 : Obligations.ComputedJumpAddsV0 := fun _ _ =>
  ⟨decodesTo_of_encode rfl rfl, completes_of_setPc rfl (by omega)⟩

/-- Settles O13: a skip on the comparison of a register with `kk`. -/
theorem immediateSkips : Obligations.ImmediateSkips := fun _ _ _ =>
  ⟨decodesTo_of_encode rfl rfl, decodesTo_of_encode rfl rfl,
    completes_of_skipIf rfl (beq_iff_toNat_eq _ _), completes_of_skipIf rfl (bne_iff_toNat_ne _ _)⟩

/-- Settles O14: a skip on the comparison of two registers, and the rest of families 0x5 and 0x9. -/
theorem registerSkips : Obligations.RegisterSkips := by
  intro x y s
  refine ⟨decodesTo_of_encode rfl rfl, decodesTo_of_encode rfl rfl, fun n h1 h15 f hf => ?_,
    completes_of_skipIf rfl (beq_iff_toNat_eq _ _), completes_of_skipIf rfl (bne_iff_toNat_ne _ _)⟩
  obtain rfl | rfl := hf
  · exact decode_formatXYS_unknown (.inl rfl) h1 h15 x y
  · exact decode_formatXYS_unknown (.inr rfl) h1 h15 x y

end Sys2Proof.Claims
end

section
/-! Load, arithmetic, logic, shift and random (42_load_alu.md): each operation as arithmetic on its operands,
then what an instruction that writes a register, or a result and a flag, leaves. -/

namespace Sys2Proof.Machine

theorem addByte_toNat (a b : Byte) : (addByte a b).toNat = (a.toNat + b.toNat) % 256 := by
  rw [addByte, BitVec.toNat_ofNat, Nat.mod_mod]

theorem subByte_toNat (a b : Byte) : (subByte a b).toNat = (a.toNat + 256 - b.toNat) % 256 := by
  rw [subByte, BitVec.toNat_ofNat, Nat.mod_mod]

theorem shlByte_toNat (a : Byte) : (shlByte a).toNat = a.toNat * 2 % 256 := by
  rw [shlByte, BitVec.toNat_ofNat, Nat.mod_mod]

theorem shrByte_toNat (a : Byte) : (shrByte a).toNat = a.toNat / 2 := by
  rw [shrByte, BitVec.toNat_ofNat]
  omega

/-- Bit 0 of a byte is its parity. -/
theorem shrFlag_eq_decide (a : Byte) : shrFlag a = decide (a.toNat % 2 = 1) :=
  Nat.testBit_zero a.toNat

/-- Bit 7 of a byte is set from 128 up. -/
theorem shlFlag_eq_decide (a : Byte) : shlFlag a = decide (a.toNat / 128 = 1) := by
  have hbit : shlFlag a = decide (a.toNat / 128 % 2 = 1) := Nat.testBit_eq_decide_div_mod_eq
  rw [hbit, Nat.mod_eq_of_lt (by omega)]

theorem State.reg_setReg_same (s : State) (x : Reg) (b : Byte) : (s.setReg x b).reg x = b := by
  rw [State.reg_setReg, if_pos rfl]

end Sys2Proof.Machine

namespace Sys2Proof.Claims

open Sys2Proof.Machine

/-- WriteResultAndFlag (42_load_alu.md R141): both are written, and in VF the one that VF_PRIORITY names stays. -/
theorem resultAndFlag_writeResultAndFlag (s : State) (x : Reg) (r : Byte) (f : Bool) :
    ResultAndFlag s (s.writeResultAndFlag x r f) x r.toNat f := by
  refine ⟨fun hx => ⟨?_, ?_⟩, ?_, ?_⟩
  · rw [State.reg_writeResultAndFlag, if_neg hx, if_pos rfl]
  · rw [State.reg_writeResultAndFlag, if_pos rfl, if_neg fun h => hx h.1, flagByte_toNat]
  · rintro rfl hp
    rw [State.reg_writeResultAndFlag, if_pos rfl, if_neg (by simp [hp]), flagByte_toNat]
  · rintro rfl hp
    rw [State.reg_writeResultAndFlag, if_pos rfl, if_pos ⟨rfl, hp⟩]

section
variable {i : Instr} {s : State} {x : Reg}

/-- An instruction that writes one register and no flag: `p` is what the statement says of the value. -/
theorem completes_of_setReg {b : Byte} (p : Byte → Prop) (he : exec i s = .next (s.advance.setReg x b)) (hp : p b) :
    ∃ t, exec i s = .next t ∧ p (t.reg x) ∧ t.pc = nextOf s ∧ Frame s t (· ∈ [Part.reg x, .pc]) := by
  refine ⟨s.advance.setReg x b, he, ?_, rfl, frame_advance_setReg s x b⟩
  rwa [State.reg_setReg_same]

/-- An instruction that writes a result and a flag (42_load_alu.md R141). -/
theorem completes_of_writeResultAndFlag {r : Byte} {n : Nat} {f g : Bool}
    (he : exec i s = .next (s.advance.writeResultAndFlag x r f)) (hr : r.toNat = n) (hf : f = g) :
    ∃ t, exec i s = .next t ∧ ResultAndFlag s t x n g ∧ t.pc = nextOf s ∧
      Frame s t (· ∈ [Part.reg x, .reg 15, .pc]) := by
  subst hr hf
  exact ⟨_, he, resultAndFlag_writeResultAndFlag s.advance x r f, State.writeResultAndFlag_pc _ _ _ _,
    frame_writeResultAndFlag s x r f⟩

end

/-- The word of format XYS with its family and its sub-opcode written as one number, the row's match value
(30_encoding.md R81, R86). -/
theorem decodesTo_of_formatXYS {i : Instr} {x y : Reg} (f sub : Nat) (he : encode i = formatXYS f x y sub)
    (h : i.wellFormed = true) : decodesTo (f * 0x1000 + sub + x.val * 0x100 + y.val * 0x10) i := by
  refine decodesTo_of_encode (he.trans (congrArg (BitVec.ofNat 16) ?_)) h
  omega

/-- Settles O15: one register is written, with `kk` or with the value of Vy. -/
theorem registerLoads : Obligations.RegisterLoads := fun _ y kk s =>
  ⟨decodesTo_of_encode rfl rfl, decodesTo_of_encode rfl rfl,
    completes_of_setReg (· = kk) rfl rfl, completes_of_setReg (· = s.reg y) rfl rfl⟩

/-- Settles O16: one register is written, with the sum modulo 256. -/
theorem addImmediateWrapsWithoutFlag : Obligations.AddImmediateWrapsWithoutFlag := fun x kk s =>
  ⟨decodesTo_of_encode rfl rfl,
    completes_of_setReg (fun b => b.toNat = ((s.reg x).toNat + kk.toNat) % 256) rfl (addByte_toNat _ _)⟩

/-- Settles O17: one register is written, and each bit of its value comes from the operands' bits. -/
theorem logicIsBitwise : Obligations.LogicIsBitwise := fun x y s =>
  ⟨decodesTo_of_formatXYS 0x8 0x1 rfl rfl, decodesTo_of_formatXYS 0x8 0x2 rfl rfl,
    decodesTo_of_formatXYS 0x8 0x3 rfl rfl,
    completes_of_setReg (fun v => ∀ b, v.getLsbD b = ((s.reg x).getLsbD b || (s.reg y).getLsbD b)) rfl
      fun _ => BitVec.getLsbD_or,
    completes_of_setReg (fun v => ∀ b, v.getLsbD b = ((s.reg x).getLsbD b && (s.reg y).getLsbD b)) rfl
      fun _ => BitVec.getLsbD_and,
    completes_of_setReg (fun v => ∀ b, v.getLsbD b = ((s.reg x).getLsbD b ^^ (s.reg y).getLsbD b)) rfl
      fun _ => BitVec.getLsbD_xor⟩

/-- Settles O18: the sum modulo 256 and the carry are a result and a flag. -/
theorem addRegistersSetsCarry : Obligations.AddRegistersSetsCarry := fun _ _ _ =>
  ⟨decodesTo_of_formatXYS 0x8 0x4 rfl rfl, completes_of_writeResultAndFlag rfl (addByte_toNat _ _) rfl⟩

/-- Settles O19: the difference modulo 256 and the strict comparison, with the operands in either order. -/
theorem subtractionsSetTheStrictFlag : Obligations.SubtractionsSetTheStrictFlag := fun _ _ _ =>
  ⟨decodesTo_of_formatXYS 0x8 0x5 rfl rfl, decodesTo_of_formatXYS 0x8 0x7 rfl rfl,
    completes_of_writeResultAndFlag rfl (subByte_toNat _ _) rfl,
    completes_of_writeResultAndFlag rfl (subByte_toNat _ _) rfl⟩

/-- Settles O20: the shifted byte and the bit shifted out, which is the operand's parity or its highest bit. -/
theorem shiftsSetTheBitShiftedOut : Obligations.ShiftsSetTheBitShiftedOut := fun _ _ _ =>
  ⟨decodesTo_of_formatXYS 0x8 0x6 rfl rfl, decodesTo_of_formatXYS 0x8 0xE rfl rfl,
    completes_of_writeResultAndFlag rfl (shrByte_toNat _) (shrFlag_eq_decide _),
    completes_of_writeResultAndFlag rfl (shlByte_toNat _) (shlFlag_eq_decide _)⟩

/-- Settles O21: one register is written, with the input of this cycle masked bit by bit. -/
theorem randomByteIsMasked : Obligations.RandomByteIsMasked := fun _ kk s =>
  ⟨decodesTo_of_encode rfl rfl,
    completes_of_setReg (fun v => ∀ b, v.getLsbD b = (s.inp.rnd.getLsbD b && kk.getLsbD b)) rfl
      fun _ => BitVec.getLsbD_and⟩

end Sys2Proof.Claims
end

section
/-! Address register, BCD and block transfers (43_index_memory.md): the validation in the words of the statements, then
what the loads of `I`, ADD I,Vx, LD B,Vx and the block transfers leave. -/

namespace Sys2Proof.Claims

open Sys2Proof.Machine

/-! ### Validation (20_memory.md R53 to R56, 60_exceptions.md R227) -/

theorem readFault_of_not_readBad {a : Nat} (h : ¬ readBad a) : readFault a = none :=
  (readFault_eq_none_iff a).2 (Nat.le_of_not_gt h)

theorem readFault_of_readBad {a : Nat} (h : readBad a) : readFault a = some .memRange :=
  if_pos h

theorem writeFault_of_not_storeBad {c : Config} {a : Nat} (h : ¬ storeBad c a) : writeFault c a = none := by
  obtain ⟨htop, hres⟩ := not_or.1 h
  exact (if_neg htop).trans (if_neg hres)

theorem writeFault_of_storeBad {c : Config} {a : Nat} (h : storeBad c a) : writeFault c a = some (causeOf a) := by
  by_cases htop : a > 0xFFF
  · rw [causeOf, if_pos htop]
    exact if_pos htop
  · rw [causeOf, if_neg htop]
    exact (if_neg htop).trans (if_pos (h.resolve_left htop))

section
variable {chk : Nat → Option FaultCause} {bad : Nat → Prop} (hok : ∀ k, ¬ bad k → chk k = none) {a n : Nat}
include hok

theorem firstFault_of_none_bad (h : ∀ k, k < n → ¬ bad (a + k)) : firstFault chk a n = none :=
  (firstFault_eq_none_iff chk a n).2 fun k hk => hok _ (h k hk)

/-- The validation reports the lowest failing address: it reports one, and none below it or above it. -/
theorem firstFault_of_lowestBad {b : Nat} {c : FaultCause} (h : LowestBad bad a n b) (hb : chk b = some c) :
    firstFault chk a n = some (c, b) := by
  obtain ⟨hab, hbn, -, hlow⟩ := h
  cases hf : firstFault chk a n with
  | none =>
    have hnone := (firstFault_eq_none_iff chk a n).1 hf (b - a) (by omega)
    rw [Nat.add_sub_cancel' hab, hb] at hnone
    cases hnone
  | some e =>
    obtain ⟨hab', -, hb', hlow'⟩ := firstFault_eq_some hf
    obtain hlt | heq | hgt := lt_trichotomy e.2 b
    · rw [hok _ (hlow _ hab' hlt)] at hb'
      cases hb'
    · rw [heq, hb] at hb'
      exact congrArg some (Prod.ext (Option.some.inj hb').symm heq)
    · rw [hlow' b hab hgt] at hb
      cases hb

end

theorem firstFault_of_lowest_storeBad {cfg : Config} {a n b : Nat} (h : LowestBad (storeBad cfg) a n b) :
    firstFault (writeFault cfg) a n = some (causeOf b, b) := by
  have ⟨_, _, hbad, _⟩ := h
  exact firstFault_of_lowestBad (fun _ => writeFault_of_not_storeBad) h (writeFault_of_storeBad hbad)

theorem firstFault_of_lowest_readBad {a n b : Nat} (h : LowestBad readBad a n b) :
    firstFault readFault a n = some (.memRange, b) := by
  have ⟨_, _, hbad, _⟩ := h
  exact firstFault_of_lowestBad (fun _ => readFault_of_not_readBad) h (readFault_of_readBad hbad)

theorem fits_lt_two_pow {c : FaultCause} {a : Nat} (h : c.fits a) : a < 2 ^ 17 := by
  cases c with
  | none => exact h.elim
  | memRange => exact lt_of_le_of_lt h.2 (by decide)
  | memReserved => exact lt_of_le_of_lt h (by decide)
  | stackOverflow | stackUnderflow => exact lt_of_eq_of_lt h (by decide)

/-- An instruction that takes a fault enters Faulted, with all of its address in the record. -/
theorem exec_faultEntry_of_raised {i : Instr} {s : State} {c : FaultCause} {a : Nat} (h : raised s i = some (c, a)) :
    ∃ t, exec i s = .next t ∧ FaultEntry s c a t :=
  ⟨_, exec_of_raised h, faultEntry_takeFault s c (fits_lt_two_pow (raised_fits h))⟩

section
variable {s : State} {x : Reg}

theorem raised_ldB_eq_none (h : ∀ k, k < 3 → ¬ storeBad s.cfg (s.i.toNat + k)) : raised s (.ldB x) = none :=
  firstFault_of_none_bad (fun _ => writeFault_of_not_storeBad) h

theorem raised_storeRegs_eq_none (h : ∀ k, k ≤ x.val → ¬ storeBad s.cfg (s.i.toNat + k)) :
    raised s (.storeRegs x) = none :=
  firstFault_of_none_bad (fun _ => writeFault_of_not_storeBad) fun k hk => h k (Nat.le_of_lt_succ hk)

theorem raised_loadRegs_eq_none (h : ∀ k, k ≤ x.val → ¬ readBad (s.i.toNat + k)) :
    raised s (.loadRegs x) = none :=
  firstFault_of_none_bad (fun _ => readFault_of_not_readBad) fun k hk => h k (Nat.le_of_lt_succ hk)

/-! ### What the instructions leave -/

/-- The updates of ADD I,Vx (43_index_memory.md R172). -/
theorem effect_addI : effect s (.addI x) =
    if s.cfg.addiVf then (s.advance.setI (wrapI s.cfg (addISum s x))).setFlag (addIFlag (addISum s x))
    else s.advance.setI (wrapI s.cfg (addISum s x)) :=
  rfl

theorem i_effect_addI : (effect s (.addI x)).i = wrapI s.cfg (addISum s x) := by
  rw [effect_addI]
  split <;> rfl

theorem pc_effect_addI : (effect s (.addI x)).pc = s.nextPc := by
  rw [effect_addI]
  split <;> rfl

theorem flag_effect_addI (h : s.cfg.addiVf = true) :
    (effect s (.addI x)).reg 15 = flagByte (addIFlag (addISum s x)) := by
  rw [effect_addI, if_pos h, State.reg_setFlag, if_pos rfl]

/-- Each of the three digits fits a byte. -/
theorem bcdDigits_toNat (b : Byte) {k : Nat} (hk : k < 3) :
    ((bcdDigits b)[k]'hk).toNat = [b.toNat / 100, b.toNat / 10 % 10, b.toNat % 10][k] := by
  interval_cases k <;> exact (BitVec.toNat_ofNat _ _).trans (Nat.mod_eq_of_lt (by omega))

/-- LD B,Vx that takes no fault leaves each digit at its address (43_index_memory.md R174). -/
theorem digit_effect_ldB (hwf : s.memWf) (hn : raised s (.ldB x) = none) {k : Nat} (hk : k < 3) :
    ((effect s (.ldB x)).readByte (s.i.toNat + k)).toNat =
      [(s.reg x).toNat / 100, (s.reg x).toNat / 10 % 10, (s.reg x).toNat % 10][k] := by
  obtain ⟨hfit, -⟩ := bounds_of_store (by decide) hn
  rw [← bcdDigits_toNat _ hk]
  exact congrArg BitVec.toNat
    (State.readByte_writeBytes (s := s.advance) hwf s.i.toNat (bcdDigits (s.reg x)) hfit hk)

theorem reg_effect_loadRegs {r : Reg} (hr : r ≤ x) :
    (effect s (.loadRegs x)).reg r = s.readByte (s.i.toNat + r.val) := by
  rw [effect, State.reg_advanceI, State.reg_loadRegsFrom, if_pos hr]
  rfl

/-- The advance of `I` after a block transfer, under LDST_ADVANCE_I (43_index_memory.md R175, R176). -/
theorem i_advanceI_toNat {t : State} (hcfg : t.cfg = s.cfg) (hi : t.i = s.i) (h : s.cfg.ldstAdvanceI = true) :
    (t.advanceI x).i.toNat = wrapped s.cfg (s.i.toNat + x.val + 1) := by
  rw [State.advanceI_i, hcfg, hi, if_pos h]
  exact wrapI_toNat _ _

end

/-- An instruction that sets `I` and nothing else. -/
theorem completes_of_setI {i : Instr} {s : State} {a : Word} {n : Nat} (he : exec i s = .next (s.advance.setI a))
    (ha : a.toNat = n) :
    ∃ t, exec i s = .next t ∧ t.i.toNat = n ∧ t.pc = nextOf s ∧ Frame s t (· ∈ [Part.i, .pc]) :=
  ⟨s.advance.setI a, he, ha, rfl, ((Frame.refl s _).advance (by simp)).setI (by simp) a⟩

/-- The word of format XSS with its family and its sub-opcode written as one number, the row's match value
(30_encoding.md R81, R86). -/
theorem decodesTo_of_formatXSS {i : Instr} {x : Reg} (f sub : Nat) (he : encode i = formatXSS f x sub)
    (h : i.wellFormed = true) : decodesTo (f * 0x1000 + sub + x.val * 0x100) i :=
  decodesTo_of_encode (he.trans (congrArg (BitVec.ofNat 16) (Nat.add_right_comm _ _ _))) h

/-- Settles O22: a 12-bit address fits `I`, and so does five times a byte. -/
theorem indexLoads : Obligations.IndexLoads := by
  intro nnn x s
  refine ⟨decodesTo_of_encode rfl rfl, decodesTo_of_formatXSS 0xF 0x29 rfl rfl, completes_of_setI rfl ?_,
    completes_of_setI rfl ?_⟩
  · exact BitVec.toNat_setWidth_of_le (by decide)
  · rw [BitVec.toNat_ofNat]
    omega

/-- Settles O23: `I` and `pc` under either setting of ADDI_VF, and VF where it is set. -/
theorem addToIndex : Obligations.AddToIndex := by
  intro x s
  refine ⟨decodesTo_of_formatXSS 0xF 0x1E rfl rfl, effect s (.addI x), rfl, ?_, fun hvf => ?_, pc_effect_addI,
    (frame_effect s (.addI x)).mono fun p hp => ?_⟩
  · rw [i_effect_addI]
    exact wrapI_toNat _ _
  · rw [flag_effect_addI hvf, flagByte_toNat]
    exact if_congr decide_eq_true_iff rfl rfl
  · obtain rfl | rfl | hvf := hp
    · exact .inl (by simp)
    · exact .inl (by simp)
    · exact .inr hvf

/-- Settles O24: the digits are the bytes stored, or the validation reports the lowest failing address. -/
theorem decimalDigitsAreStored : Obligations.DecimalDigitsAreStored := by
  intro x s
  refine ⟨decodesTo_of_formatXSS 0xF 0x33 rfl rfl, fun hwf hok => ?_,
    fun b hb => exec_faultEntry_of_raised (firstFault_of_lowest_storeBad hb)⟩
  have hn : raised s (.ldB x) = none := raised_ldB_eq_none hok
  exact ⟨_, exec_of_not_raised hn, digit_effect_ldB hwf hn (k := 0) (by decide),
    digit_effect_ldB hwf hn (k := 1) (by decide), digit_effect_ldB hwf hn (k := 2) (by decide),
    State.writeBytes_pc _ _ _, frame_effect s (.ldB x)⟩

/-- Settles O25: the registers are the bytes stored, or the validation reports the lowest failing address. -/
theorem registersAreStored : Obligations.RegistersAreStored := by
  intro x s
  refine ⟨decodesTo_of_formatXSS 0xF 0x55 rfl rfl, fun hwf hok => ?_,
    fun b hb => exec_faultEntry_of_raised (firstFault_of_lowest_storeBad hb)⟩
  have hn : raised s (.storeRegs x) = none := raised_storeRegs_eq_none hok
  exact ⟨_, exec_of_not_raised hn, fun r hr => readByte_effect_storeRegs hwf hn hr,
    i_advanceI_toNat (State.writeBytes_cfg _ _ _) (State.writeBytes_i _ _ _),
    (State.advanceI_pc _ _).trans (State.writeBytes_pc _ _ _), frame_effect s (.storeRegs x)⟩

/-- Settles O26: the registers are the bytes read, or the validation reports the lowest failing address. -/
theorem registersAreLoaded : Obligations.RegistersAreLoaded := by
  intro x s
  refine ⟨decodesTo_of_formatXSS 0xF 0x65 rfl rfl, fun hok => ?_,
    fun b hb => exec_faultEntry_of_raised (firstFault_of_lowest_readBad hb)⟩
  exact ⟨_, exec_of_not_raised (raised_loadRegs_eq_none hok), fun r hr => reg_effect_loadRegs hr,
    i_advanceI_toNat rfl rfl, State.advanceI_pc _ _, frame_effect s (.loadRegs x)⟩

/-- Settles O27: an address that takes a store can be read, so the load reads back the bytes of the store. -/
theorem storedRegistersLoadBack : Obligations.StoredRegistersLoadBack := by
  intro x s t u hwf hok hstore hi hsame
  have hn : raised s (.storeRegs x) = none := raised_storeRegs_eq_none hok
  obtain rfl : effect s (.storeRegs x) = t := Host.Outcome.next.inj ((exec_of_not_raised hn).symm.trans hstore)
  have hload : raised u (.loadRegs x) = none :=
    raised_loadRegs_eq_none (hi ▸ fun k hk hbad => hok k hk (.inl hbad))
  refine ⟨_, exec_of_not_raised hload, fun r hr => ?_⟩
  calc (effect u (.loadRegs x)).reg r
      = u.readByte (s.i.toNat + r.val) := hi ▸ reg_effect_loadRegs hr
    _ = (effect s (.storeRegs x)).readByte (s.i.toNat + r.val) := hsame r.val hr
    _ = s.reg r := readByte_effect_storeRegs hwf hn hr

end Sys2Proof.Claims
end

section
/-! Display (44_display.md): the cells a sprite covers in the words of the statements, then what a drawing does to
each cell and to the flag. -/

namespace Sys2Proof.Claims

open Sys2Proof.Machine

/-- The cells that DRW toggles one after another are those that a bit of the sprite that is 1 falls on
(20_memory.md R66, 44_display.md R192). -/
theorem mem_spriteCells_iff_spriteCovers (s : State) (x y : Reg) (n : Nat) (p : Pixel) :
    p ∈ spriteCells (s.reg x) (s.reg y) 0 (s.readBytes s.i.toNat n) ↔ spriteCovers s x y n p := by
  simp [mem_spriteCells, spriteCovers, State.readBytes, cellIndex, Fin.ext_iff]

/-- What a sprite covers depends on its rows, its coordinates and `I` only. -/
theorem spriteCovers_congr {s u : State} {x y : Reg} {n : Nat} (hi : u.i = s.i)
    (hrows : ∀ k, k < n → u.readByte (s.i.toNat + k) = s.readByte (s.i.toNat + k)) (hx : u.reg x = s.reg x)
    (hy : u.reg y = s.reg y) (p : Pixel) : spriteCovers u x y n p ↔ spriteCovers s x y n p := by
  unfold spriteCovers
  rw [hi, hx, hy]
  exact exists_congr fun r => exists_congr fun c => and_congr_right fun hr => by rw [hrows r hr]

/-- A sprite has at most 15 rows, so no cell is toggled twice (44_display.md R193 (1)). -/
theorem nodup_cells_of_sprite (s : State) (x y : Reg) (n : Nibble) :
    (spriteCells (s.reg x) (s.reg y) 0 (s.readBytes s.i.toNat n.toNat)).Nodup := by
  refine nodup_spriteCells _ _ _ _ ?_
  simp only [State.readBytes, List.length_map, List.length_range]
  omega

section
variable {s : State} {x y : Reg} {n : Nibble}

theorem cellOf_effect_drw (p : Pixel) : cellOf (effect s (.drw x y n)).fb p =
    (cellOf s.fb p ^^ decide (p ∈ spriteCells (s.reg x) (s.reg y) 0 (s.readBytes s.i.toNat n.toNat))) :=
  cellOf_drawCells s.fb false (nodup_cells_of_sprite s x y n) p

theorem cellOf_effect_drw_of_covers {p : Pixel} (h : spriteCovers s x y n.toNat p) :
    cellOf (effect s (.drw x y n)).fb p = !cellOf s.fb p := by
  have hmem := (mem_spriteCells_iff_spriteCovers s x y n.toNat p).2 h
  rw [cellOf_effect_drw, decide_eq_true hmem, Bool.xor_true]

theorem cellOf_effect_drw_of_not_covers {p : Pixel} (h : ¬ spriteCovers s x y n.toNat p) :
    cellOf (effect s (.drw x y n)).fb p = cellOf s.fb p := by
  have hmem := mt (mem_spriteCells_iff_spriteCovers s x y n.toNat p).1 h
  rw [cellOf_effect_drw, decide_eq_false hmem, Bool.xor_false]

/-- The collision (44_display.md R192, R193 (2)). -/
theorem drawn_flag_iff :
    (s.drawn x y n.toNat).2 = true ↔ ∃ p, spriteCovers s x y n.toNat p ∧ cellOf s.fb p = true := by
  rw [State.drawn, drawCells_flag _ _ (nodup_cells_of_sprite s x y n), Bool.false_or, List.any_eq_true]
  exact exists_congr fun p => and_congr_left' (mem_spriteCells_iff_spriteCovers s x y n.toNat p)

theorem flag_effect_drw : (effect s (.drw x y n)).reg 15 = flagByte (s.drawn x y n.toNat).2 := by
  rw [effect, State.reg_setFlag, if_pos rfl]

theorem flag_effect_drw_of_collision (h : ∃ p, spriteCovers s x y n.toNat p ∧ cellOf s.fb p = true) :
    (effect s (.drw x y n)).reg 15 = 1 := by
  rw [flag_effect_drw, drawn_flag_iff.2 h]
  rfl

theorem flag_effect_drw_of_no_collision (h : ∀ p, spriteCovers s x y n.toNat p → cellOf s.fb p = false) :
    (effect s (.drw x y n)).reg 15 = 0 := by
  have hflag : (s.drawn x y n.toNat).2 = false := by
    rw [Bool.eq_false_iff, ne_eq, drawn_flag_iff]
    rintro ⟨p, hp, hset⟩
    exact Bool.false_ne_true ((h p hp).symm.trans hset)
  rw [flag_effect_drw, hflag]
  rfl

/-- The row of the access matrix for DRW, with the cells narrowed to those covered. -/
theorem frame_effect_drw : Frame s (effect s (.drw x y n))
    (fun p => p ∈ [Part.reg 15, .dirty, .pc] ∨ ∃ q, spriteCovers s x y n.toNat q ∧ p = .cell q) := by
  intro p hp
  by_cases hcell : ∃ q, p = .cell q
  · obtain ⟨q, rfl⟩ := hcell
    exact cellOf_effect_drw_of_not_covers fun hq => hp (.inr ⟨q, hq, rfl⟩)
  · refine frame_effect s (.drw x y n) p (mt ?_ hp)
    rintro (rfl | rfl | rfl | hq)
    · exact .inl (by simp)
    · exact .inl (by simp)
    · exact .inl (by simp)
    · exact absurd hq hcell

theorem raised_drw_eq_none (h : ∀ k, k < n.toNat → ¬ readBad (s.i.toNat + k)) : raised s (.drw x y n) = none :=
  firstFault_of_none_bad (fun _ => readFault_of_not_readBad) h

end

/-- Settles O30: each covered cell is toggled once, or the validation reports the lowest failing address. -/
theorem drawIsExclusiveOrWithCollision : Obligations.DrawIsExclusiveOrWithCollision := by
  intro x y n s
  refine ⟨decodesTo_of_encode rfl rfl, fun hok => ?_,
    fun b hb => exec_faultEntry_of_raised (firstFault_of_lowest_readBad hb)⟩
  exact ⟨_, exec_of_not_raised (raised_drw_eq_none hok), fun p hp => cellOf_effect_drw_of_covers hp,
    flag_effect_drw_of_collision, flag_effect_drw_of_no_collision, rfl, rfl, frame_effect_drw⟩

/-- Settles O31: the second drawing covers the same cells and toggles each of them back, and a covered cell is set
before it exactly when it was clear before the first. -/
theorem drawingTwiceRestoresTheDisplay : Obligations.DrawingTwiceRestoresTheDisplay := by
  intro x y n s t u hok hdraw hfb hi hrows hx hy
  obtain rfl : effect s (.drw x y n) = t :=
    Host.Outcome.next.inj ((exec_of_not_raised (raised_drw_eq_none hok)).symm.trans hdraw)
  have hcovers := spriteCovers_congr hi hrows hx hy
  have hbefore {p : Pixel} (hp : spriteCovers s x y n.toNat p) : cellOf u.fb p = !cellOf s.fb p := by
    rw [hfb, cellOf_effect_drw_of_covers hp]
  refine ⟨effect u (.drw x y n), exec_of_not_raised (raised_drw_eq_none (hi ▸ hok)), grid_ext fun p => ?_, ?_, ?_⟩
  · by_cases hp : spriteCovers s x y n.toNat p
    · rw [cellOf_effect_drw_of_covers ((hcovers p).2 hp), hbefore hp, Bool.not_not]
    · rw [cellOf_effect_drw_of_not_covers (mt (hcovers p).1 hp), hfb, cellOf_effect_drw_of_not_covers hp]
  · rintro ⟨p, hp, hclear⟩
    exact flag_effect_drw_of_collision ⟨p, (hcovers p).2 hp, by rw [hbefore hp, hclear, Bool.not_false]⟩
  · intro hset
    refine flag_effect_drw_of_no_collision fun p hp => ?_
    have hp' := (hcovers p).1 hp
    rw [hbefore hp', hset p hp', Bool.not_true]

/-- Settles O29: the cleared grid has no set cell, and the frame is the row of CLS. -/
theorem clearEmptiesTheDisplay : Obligations.ClearEmptiesTheDisplay := fun ign s =>
  ⟨decodesTo_of_encode rfl rfl, effect s (.cls ign), rfl, cellOf_clearGrid, rfl, rfl, frame_effect s (.cls ign)⟩

end Sys2Proof.Claims
end

section
/-! Keypad and timers (45_timer_input.md): key codes and key sets in the words of the statements, then the skips, the
moves of a timer and the wait for a key. -/

namespace Sys2Proof.Machine

/-- Every key code fits a byte. -/
theorem keyCode_toNat (k : Key) : (BitVec.ofNat 8 k.val).toNat = k.val := by
  rw [BitVec.toNat_ofNat]
  omega

/-- With no value listed, `key_select` is its default (45_timer_input.md R206). -/
theorem keySelect_of_nil {c : Config} (h : c.keySelect = []) (k : Word) : keySelect c k = lowestKey k := by
  rw [keySelect, h]
  rfl

/-- Under the default, no key below the selected one is down (45_timer_input.md R206). -/
theorem key_up_of_lt_keySelect {c : Config} (h : c.keySelect = []) {k : Word} (hk : k ≠ 0) {j : Nat}
    (hj : j < (keySelect c k).val) : k.getLsbD j = false := by
  rw [keySelect_of_nil h] at hj
  exact (lowestKey_spec hk).2 ⟨j, hj.trans (lowestKey k).isLt⟩ hj

/-- LD Vx,K with no key down leaves the state as it is (45_timer_input.md R206). -/
theorem exec_ldVxK_of_no_key {s : State} (h : s.keys = 0) (x : Reg) : exec (.ldVxK x) s = .next s :=
  if_pos h

/-- LD Vx,K with a key down writes the selected key code (45_timer_input.md R206). -/
theorem exec_ldVxK_of_key {s : State} (h : s.keys ≠ 0) (x : Reg) :
    exec (.ldVxK x) s = .next (s.advance.setReg x (BitVec.ofNat 8 (keySelect s.cfg s.keys).val)) :=
  if_neg h

end Sys2Proof.Machine

namespace Sys2Proof.Claims

open Sys2Proof.Machine

theorem keyDown_iff_pressed (s : State) (b : Byte) : s.keyDown b = true ↔ pressed s b.toNat := by
  rw [State.keyDown, Bool.and_eq_true, decide_eq_true_iff, pressed]

theorem not_keyDown_iff_not_pressed (s : State) (b : Byte) : (!s.keyDown b) = true ↔ ¬ pressed s b.toNat := by
  rw [← keyDown_iff_pressed, Bool.not_eq_true', Bool.not_eq_true]

/-- Settles O32: a skip on membership of the register's value in the key set, and one on the opposite. -/
theorem keySkips : Obligations.KeySkips := by
  classical
  intro x s
  obtain ⟨t, ht, htpc, htframe⟩ := completes_of_skipIf (i := .skp x) rfl (keyDown_iff_pressed s (s.reg x))
  obtain ⟨u, hu, hupc, huframe⟩ := completes_of_skipIf (i := .sknp x) rfl (not_keyDown_iff_not_pressed s (s.reg x))
  exact ⟨decodesTo_of_formatXSS 0xE 0x9E rfl rfl, decodesTo_of_formatXSS 0xE 0xA1 rfl rfl,
    ⟨t, ht, fun h => htpc.trans (if_pos h), fun h => htpc.trans (if_neg h), htframe⟩,
    ⟨u, hu, fun h => hupc.trans (if_neg (not_not_intro h)), fun h => hupc.trans (if_pos h), huframe⟩⟩

/-- Settles O33: a register is written with the delay timer, and each timer with a register. -/
theorem timerMoves : Obligations.TimerMoves := by
  intro x s
  have adv {may : Part → Prop} (h : may .pc) : Frame s s.advance may := (Frame.refl s may).advance h
  exact ⟨decodesTo_of_formatXSS 0xF 0x07 rfl rfl, decodesTo_of_formatXSS 0xF 0x15 rfl rfl,
    decodesTo_of_formatXSS 0xF 0x18 rfl rfl, completes_of_setReg (· = s.dt) rfl rfl,
    ⟨s.advance.setDt (s.reg x), rfl, rfl, rfl, (adv (by simp)).setDt (by simp) _⟩,
    ⟨s.advance.setSt (s.reg x), rfl, rfl, rfl, (adv (by simp)).setSt (by simp) _⟩⟩

/-- Settles O34: the state stays as it is with no key down; otherwise one register is written, with the code of the
selected key. -/
theorem keyWait : Obligations.KeyWait := by
  intro x s
  refine ⟨decodesTo_of_formatXSS 0xF 0x0A rfl rfl, fun hup => ?_, fun ⟨k, _, hdown⟩ => ?_⟩
  · have hnone : s.keys = 0 := BitVec.eq_of_getLsbD_eq fun k hk => (hup k hk).trans BitVec.getLsbD_zero.symm
    exact ⟨s, exec_ldVxK_of_no_key hnone x, Frame.refl s _⟩
  · have hsome : s.keys ≠ 0 := fun h => by simp [h] at hdown
    obtain ⟨t, ht, hreg, hpc, hframe⟩ :=
      completes_of_setReg (·.toNat = (keySelect s.cfg s.keys).val) (exec_ldVxK_of_key hsome x) (keyCode_toNat _)
    refine ⟨t, ht, ?_, ?_, fun hdefault k hk => key_up_of_lt_keySelect hdefault hsome (hreg ▸ hk), hpc, hframe⟩
    · exact hreg ▸ (keySelect s.cfg s.keys).isLt
    · exact hreg ▸ keySelect_mem s.cfg hsome

end Sys2Proof.Claims
end

section
/-! Exceptions and the tone (60_exceptions.md): which instruction raises which cause, and what can raise the sound timer
from 0. -/

namespace Sys2Proof.Machine

/-- What the validation of stores reports is an address above memory or in the reserved region (20_memory.md R54,
R56). -/
theorem firstFault_writeFault_eq_some {cfg : Config} {a n b : Nat} {c : FaultCause}
    (h : firstFault (writeFault cfg) a n = some (c, b)) : c = .memRange ∨ c = .memReserved := by
  obtain ⟨-, -, hf, -⟩ := firstFault_eq_some h
  exact (writeFault_eq_some hf).imp And.left And.left

theorem State.tone_eq_true_iff (s : State) : s.tone = true ↔ s.st ≠ 0 := decide_eq_true_iff

theorem State.tone_congr {s t : State} (h : t.st = s.st) : t.tone = s.tone := by
  rw [State.tone, State.tone, h]

/-- Render and tick never start the tone: the tick only counts down (40_cycle_and_fetch.md R108). -/
theorem State.tone_of_tone_render_tick {u : State} (h : u.render.tick.tone = true) : u.tone = true := by
  rw [State.tone_eq_true_iff] at h ⊢
  intro hst
  have hdown := State.st_render_tick u
  rw [hst] at hdown
  exact h (BitVec.eq_of_toNat_eq (hdown.trans (Nat.zero_sub _)))

/-- The load port does not write the sound timer (70_reset_and_hazards.md R264). -/
theorem State.hostLoad_st (s : State) (rom : List Byte) : (s.hostLoad rom).st = s.st := by
  by_cases hidle : s.runState = .idle
  · rw [State.hostLoad, if_pos hidle]
    by_cases hfit : 0x200 + rom.length ≤ 0x1000
    · rw [State.loadFrom_fits _ _ _ hfit, State.writeBytes_st]
    · rw [State.loadFrom_long _ _ _ (by decide) (by simpa [progBase] using hfit)]
      exact State.writeBytes_st ..
  · rw [State.hostLoad_of_not_idle hidle]

theorem State.hostStart_st (s : State) : s.hostStart.st = s.st := by
  unfold State.hostStart
  split <;> rfl

end Sys2Proof.Machine

namespace Sys2Proof.Claims

open Sys2Proof.Machine

/-- The cause of the fault an instruction takes is one of its row (60_exceptions.md R242). -/
theorem mayRaise_of_raised {s : State} {i : Instr} {c : FaultCause} {a : Nat} (h : raised s i = some (c, a)) :
    mayRaise i c := by
  cases i with
  | ret ign | call nnn =>
    simp only [raised] at h
    split at h <;> cases h
    rfl
  | drw x y n | loadRegs x => exact firstFault_readFault_eq_some h
  | ldB x | storeRegs x => exact firstFault_writeFault_eq_some h
  | _ => cases h

/-- Settles O41: an effect keeps the run state, and fault entry records what the instruction raises. -/
theorem handlersRaiseOnlyTheirCauses : Obligations.HandlersRaiseOnlyTheirCauses := by
  intro i s t hrun hexec hstop
  obtain ⟨c, a, hr, rfl⟩ | ⟨-, rfl⟩ := exec_cases hexec
  · exact ⟨rfl, mayRaise_of_raised hr⟩
  · exact absurd ((effect_runState s i).trans hrun) hstop

/-- The access matrix at `ST`: LD ST,Vx is the only instruction that writes it (10_state.md R29). -/
theorem effect_st (s : State) (i : Instr) (hi : ∀ x, i ≠ .ldStVx x) : (effect s i).st = s.st := by
  refine frame_effect s i .st ?_
  cases i with
  | ldStVx x => exact absurd rfl (hi x)
  | _ => simp [mayWrite, bytesFrom]

/-- An instruction that starts the tone is LD ST,Vx with a value other than 0. -/
theorem ldStVx_of_tone_effect {s : State} {i : Instr} (hoff : s.tone = false) (hon : (effect s i).tone = true) :
    ∃ x, i = .ldStVx x ∧ s.reg x ≠ 0 := by
  by_cases hi : ∃ x, i = .ldStVx x
  · obtain ⟨x, rfl⟩ := hi
    exact ⟨x, rfl, (State.tone_eq_true_iff _).1 hon⟩
  · rw [State.tone_congr (effect_st s i (not_exists.1 hi)), hoff] at hon
    cases hon

/-- A fetch that succeeds reads `wordAtPc`. -/
theorem eq_wordAtPc_of_fetch {s : State} {w : Word} (h : s.fetch = .ok w) : w = wordAtPc s :=
  Except.ok.inj (h.symm.trans (State.fetch_eq_ok (State.pc_le_of_fetch h)))

/-- The next instruction of a Running machine loads `ST` with a value other than 0. -/
def LoadsToneNext (s : State) : Prop :=
  s.runState = .running ∧ ∃ x : Reg, decode (wordAtPc s) = .ldStVx x ∧ s.reg x ≠ 0

/-- A cycle starts the tone only by its instruction: quit and faults leave `ST` as it is, and the tick counts down. -/
theorem loadsToneNext_of_cycle {s t : State} {inp : CycleIn} (hrun : s.runState = .running)
    (hcycle : s.cycle inp = .next t) (hoff : s.tone = false) (hon : t.tone = true) : LoadsToneNext s := by
  obtain ⟨-, rfl⟩ | ⟨-, c, a, -, rfl⟩ | ⟨-, w, hw, rfl⟩ := State.cycle_outcome hrun hcycle
  · exact absurd hon (Bool.eq_false_iff.1 hoff)
  · exact absurd hon (Bool.eq_false_iff.1 hoff)
  · obtain rfl := eq_wordAtPc_of_fetch hw
    exact ⟨hrun, ldStVx_of_tone_effect (s := s.poll inp) hoff (State.tone_of_tone_render_tick hon)⟩

/-- A host move starts the tone only by a cycle it drives: reset clears `ST`, load and start leave it as it is. -/
theorem loadsToneNext_of_hostMove {s t : State} {move : HostMove} (hmove : s.hostMove move = .next t)
    (hoff : s.tone = false) (hon : t.tone = true) : LoadsToneNext s := by
  have hkeeps (h : t.st = s.st) : LoadsToneNext s :=
    absurd ((State.tone_congr h).symm.trans hon) (Bool.eq_false_iff.1 hoff)
  cases move with
  | reset => cases hmove; cases hon
  | load rom => cases hmove; exact hkeeps (State.hostLoad_st s rom)
  | start => cases hmove; exact hkeeps (State.hostStart_st s)
  | cycle inp =>
    obtain ⟨hrun, hcycle⟩ | rfl := State.cycleIfRunning_eq_next hmove
    · exact loadsToneNext_of_cycle hrun hcycle hoff hon
    · exact hkeeps rfl

/-- Settles O49: a step is a host move, a cycle with the free inputs, or nothing. -/
theorem toneRisesOnlyByLoadingSt : Obligations.ToneRisesOnlyByLoadingSt := by
  intro s t hstep hoff hon
  obtain ⟨move, rest, -, hmove⟩ | ⟨-, hrun, hcycle⟩ | ⟨-, -, rfl⟩ := step_eq_next hstep
  · exact loadsToneNext_of_hostMove (s := { s with host := rest }) hmove hoff hon
  · exact loadsToneNext_of_cycle (s := { s with draws := s.draws + 1 }) hrun hcycle hoff hon
  · exact absurd hon (Bool.eq_false_iff.1 hoff)

end Sys2Proof.Claims
end

section
/-! Reset, load and start (70_reset_and_hazards.md): what each move of the host does, and a timer written in a cycle
with a tick. -/

namespace Sys2Proof.Machine

/-- Memory at reset: FONT, then zeroes (70_reset_and_hazards.md R261). -/
theorem State.readByte_reset (a : Nat) : State.reset.readByte a = resetByte State.reset.cfg a := rfl

/-- Memory after a reset by the host: the FONT of the configuration, then zeroes (70_reset_and_hazards.md R261). -/
theorem State.readByte_hostReset (s : State) (a : Nat) : s.hostReset.readByte a = resetByte s.cfg a := rfl

theorem State.readByte_loadFault (s : State) (a c : Nat) : (s.loadFault a).readByte c = s.readByte c := rfl

/-- In Idle a ROM that fits is stored from 0x200 (70_reset_and_hazards.md R264). -/
theorem State.hostLoad_of_fits {s : State} {rom : List Byte} (hidle : s.runState = .idle) (h : rom.length ≤ 3584) :
    s.hostLoad rom = s.writeBytes 0x200 rom := by
  rw [State.hostLoad, if_pos hidle]
  exact State.loadFrom_fits s 0x200 rom (by omega)

/-- In Idle a ROM that does not fit is stored up to the end of memory and faults there (70_reset_and_hazards.md
R264). -/
theorem State.hostLoad_of_long {s : State} {rom : List Byte} (hidle : s.runState = .idle) (h : 3584 < rom.length) :
    s.hostLoad rom = (s.writeBytes 0x200 (rom.take 3584)).loadFault 0x1000 := by
  rw [State.hostLoad, if_pos hidle]
  exact State.loadFrom_long s 0x200 rom (by decide) (by omega)

theorem State.hostStart_of_idle {s : State} (h : s.runState = .idle) : s.hostStart = { s with runState := .running } :=
  if_pos h

/-- Two steps in a row are a run of two steps. -/
theorem run_two_of_steps {s t u : State} (hst : step s = .next t) (htu : step t = .next u) :
    Host.Core.run core 2 s = .next u := by
  have hcst : core.step s = .next t := hst
  have hctu : core.step t = .next u := htu
  simp only [Host.Core.run, hcst, hctu]

end Sys2Proof.Machine

namespace Sys2Proof.Claims

open Sys2Proof.Machine

section
variable {s t u : State} {may : Part → Prop}

theorem Frame.trans (hst : Frame s t may) (htu : Frame t u may) : Frame s u may := by
  intro p hn
  have h1 := hst p hn
  have h2 := htu p hn
  cases p with
  | faultRecord =>
    obtain ⟨hcause, haddr, hpc⟩ := h1
    obtain ⟨hcause', haddr', hpc'⟩ := h2
    exact ⟨hcause'.trans hcause, haddr'.trans haddr, hpc'.trans hpc⟩
  | _ => exact Eq.trans h2 h1

theorem Frame.hostStart (h : Frame s t may) (hr : may .runState) : Frame s t.hostStart may := by
  by_cases hidle : t.runState = .idle
  · rw [State.hostStart_of_idle hidle]
    intro p hn
    cases p with
    | runState => exact absurd hr hn
    | _ => exact h _ hn
  · rwa [State.hostStart_of_not_idle hidle]

theorem Frame.loadFault (h : Frame s t may) (hr : may .runState) (hf : may .faultRecord) (a : Nat) :
    Frame s (t.loadFault a) may := by
  intro p hn
  cases p with
  | runState => exact absurd hr hn
  | faultRecord => exact absurd hf hn
  | _ => exact h _ hn

end

/-- A host-driven cycle whose instruction raises nothing is the instruction's effect, then render and tick. -/
theorem step_of_effect {s : State} {inp : CycleIn} {rest : List HostMove} {i : Instr} (hrun : s.runState = .running)
    (hhost : s.host = .cycle inp :: rest) (hq : inp.quit = false) (hpc : s.pc.toNat ≤ 0xFFE)
    (hi : decode (wordAtPc s) = i) (hn : raised (polled s inp rest) i = none) :
    step s = .next (effect (polled s inp rest) i).render.tick := by
  have hexec : (polled s inp rest).execute = .next (effect (polled s inp rest) i) := by
    rw [State.execute_of_fetch (fetch_polled inp rest hpc), hi]
    exact exec_of_not_raised hn
  rw [step_of_execute hrun hhost hq hexec]
  exact congrArg _ (State.finish_eq (by simp [polled, hrun]))

/-- Settles O50: the register's value is in the timer when the tick counts it down, and no repaint is owed. -/
theorem timerWrittenInATickedCycle : Obligations.TimerWrittenInATickedCycle := by
  intro s inp rest x hrun hd hhost hq htick hpc
  have htick' (i : Instr) : (effect (polled s inp rest) i).inp.tick = true := by rw [effect_inp]; exact htick
  have hst : (effect (polled s inp rest) (.ldStVx x)).st = s.reg x := rfl
  refine ⟨fun hi => ⟨_, step_of_effect hrun hhost hq hpc hi rfl, ?_⟩,
    fun hi => ⟨_, step_of_effect hrun hhost hq hpc hi rfl, ?_, ?_⟩⟩
  · rw [dt_render_tick, htick']
    rfl
  · rw [State.st_render_tick, htick', hst]
    rfl
  · have hdirty : (effect (polled s inp rest) (.ldStVx x)).dirty = false := hd
    have hone : (s.reg x).toNat = 1 ↔ s.reg x = 1 := BitVec.toNat_inj (y := 1)
    simp only [State.events_render_tick, htick', hst, hdirty, hone]
    simp [effect_events_of_not_unknown, polled]

/-- Settles O52: the load is a store of the whole ROM. -/
theorem loadPortWritesTheRom : Obligations.LoadPortWritesTheRom := by
  intro s rom rest hhost hwf hlen hidle
  refine ⟨State.writeBytes { s with host := rest } 0x200 rom, ?_, fun k hk => ?_, State.writeBytes_host .., ?_⟩
  · rw [step_of_move hhost]
    exact congrArg _ (State.hostLoad_of_fits (s := { s with host := rest }) hidle hlen)
  · exact State.readByte_writeBytes (s := { s with host := rest }) hwf 0x200 rom (by simp only [memTop]; omega) hk
  · exact ((Frame.refl s _).withHost (.inl rfl) rest).writeBytes 0x200 rom fun k hk => .inr ⟨k, hk, rfl⟩

/-- Settles O53: the load is a store of the bytes that fit, then the fault at the first address above memory. -/
theorem loadPortFaultsOnALongRom : Obligations.LoadPortFaultsOnALongRom := by
  intro s rom rest hhost hwf hlong hidle
  have hlen : (rom.take 3584).length = 3584 := List.length_take_of_le hlong.le
  refine ⟨(State.writeBytes { s with host := rest } 0x200 (rom.take 3584)).loadFault 0x1000, ?_, rfl, rfl, rfl, rfl,
    fun k hk hkr => ?_, State.writeBytes_host .., ?_⟩
  · rw [step_of_move hhost]
    exact congrArg _ (State.hostLoad_of_long (s := { s with host := rest }) hidle hlong)
  · rw [State.readByte_loadFault, State.readByte_writeBytes (s := { s with host := rest }) hwf 0x200 (rom.take 3584)
      (by simp only [memTop]; omega) (by omega), List.getElem_take]
  · have hmoved := (Frame.refl s (fun p => p ∈ [Part.host, .runState, .faultRecord] ∨ bytesFrom 0x200 3584 p)).withHost
      (by simp) rest
    have hstored := hmoved.writeBytes 0x200 (rom.take 3584) fun k hk => .inr ⟨k, by omega, rfl⟩
    exact hstored.loadFault (by simp) (by simp) 0x1000

/-- Settles O54: `start` writes the run state in Idle, and neither `start` nor the load port acts in Running. -/
theorem startRunsOnlyFromIdle : Obligations.StartRunsOnlyFromIdle := by
  refine fun s rest => ⟨fun hhost hidle => ?_, fun hhost hrun => ?_⟩
  · have hstart := State.hostStart_of_idle (s := { s with host := rest }) hidle
    refine ⟨State.hostStart { s with host := rest }, step_of_move hhost, by rw [hstart], by rw [hstart], ?_⟩
    exact ((Frame.refl s _).withHost (by simp) rest).hostStart (by simp)
  · refine ⟨{ s with host := rest }, ?_, rfl, (Frame.refl s _).withHost (by simp) rest⟩
    have hn : s.runState ≠ .idle := by rw [hrun]; decide
    obtain hhost | ⟨rom, hhost⟩ := hhost <;> rw [step_of_move hhost]
    · exact congrArg _ (State.hostStart_of_not_idle (s := { s with host := rest }) hn)
    · exact congrArg _ (State.hostLoad_of_not_idle (s := { s with host := rest }) hn rom)

/-- Settles O51: the state is `State.reset` but for the configuration and the model's own fields. -/
theorem hostResetGivesResetValues : Obligations.HostResetGivesResetValues := by
  intro s rest hhost
  refine ⟨State.hostReset { s with host := rest }, step_of_move hhost, ?_, rfl, rfl⟩
  exact ⟨State.readByte_hostReset _, rfl, rfl, fun x => Vector.getElem_replicate _, rfl, rfl,
    fun j => Vector.getElem_replicate _, rfl, rfl, cellOf_clearGrid, rfl, rfl, rfl, rfl, rfl⟩

/-- Settles O55: the load of O52, then the start of O54, from reset. -/
theorem launchState : Obligations.LaunchState := by
  intro rom rest hlen
  obtain ⟨t, hload, hrom, hthost, htframe⟩ :=
    loadPortWritesTheRom (bootWith rom rest) rom (.start :: rest) rfl State.reset_memWf hlen rfl
  have htidle : t.runState = .idle := htframe .runState (by simp [bytesFrom])
  obtain ⟨u, hstart, hurun, huhost, huframe⟩ := (startRunsOnlyFromIdle t rest).1 hthost htidle
  have hframe : Frame State.reset u (fun p => p ∈ [Part.runState, .host] ∨ bytesFrom 0x200 rom.length p) := by
    refine (Frame.trans (t := bootWith rom rest) ?_ (htframe.mono fun p hp => hp.imp_left ?_)).trans
      (huframe.mono fun p hp => .inl hp)
    · exact (Frame.refl State.reset _).withHost (by simp) _
    · rintro rfl; simp
  refine ⟨u, run_two_of_steps hload hstart, hurun, huhost, fun a => ?_, hframe⟩
  split
  case isTrue h =>
    have hkeep : u.readByte a = t.readByte a := huframe (.byte a) (by simp)
    obtain ⟨k, rfl⟩ := Nat.exists_eq_add_of_le h.1
    simpa [hkeep] using hrom k (by omega)
  case isFalse h =>
    have hkeep : u.readByte a = State.reset.readByte a := hframe (.byte a) (by simp [bytesFrom]; omega)
    have hcfg : u.cfg = State.reset.cfg := hframe .cfg (by simp [bytesFrom])
    rw [hkeep, State.readByte_reset, hcfg, resetByte]

end Sys2Proof.Claims
end

section
/-! The decoder against the opcode table (30_encoding.md R83 to R88), row by row and family by family; canonical
memories; the state after reset. -/

namespace Sys2Proof

section
variable {w m : Word}

/-! A word that meets a row's match value under its mask has the value's family, and its low nibble or low byte where
the mask keeps them. -/

theorem fieldFamily_of_mask_family (h : w &&& 0xF000 = m) : (fieldFamily w).toNat = m.toNat / 0x1000 := by
  have hw := w.isLt
  rw [fieldFamily_toNat, ← h, mask_family, BitVec.toNat_ofNat]
  omega

theorem fields_of_mask_lowNibble (h : w &&& 0xF00F = m) :
    (fieldFamily w).toNat = m.toNat / 0x1000 ∧ (fieldN w).toNat = m.toNat % 0x10 := by
  have hw := w.isLt
  rw [fieldFamily_toNat, fieldN_toNat, ← h, mask_lowNibble, BitVec.toNat_ofNat]
  omega

theorem fields_of_mask_lowByte (h : w &&& 0xF0FF = m) :
    (fieldFamily w).toNat = m.toNat / 0x1000 ∧ (fieldKk w).toNat = m.toNat % 0x100 := by
  have hw := w.isLt
  rw [fieldFamily_toNat, fieldKk_toNat, ← h, mask_lowByte, BitVec.toNat_ofNat]
  omega

end

open Laws.EncodesToRow in
/-- Every encoding meets its instruction's row: one lemma of `Laws.EncodesToRow` per constructor. -/
theorem encode_meets_row (i : Instr) : Statement i :=
  Instr.rec (motive := Statement) cls ret jp call seImm seReg sneImm sneReg ldImm ldReg addImm orReg andReg xorReg
    addReg sub subn shr shl ldI jpV0 rnd drw skp sknp ldVxDt ldDtVx ldStVx ldVxK addI ldF ldB storeRegs loadRegs
    unknown i

/-- A word meets the row of the instruction it decodes to (30_encoding.md R86): it is that instruction's encoding. -/
theorem mask_of_rowOf_decode {w m k : Word} (h : rowOf (decode w) = some (m, k)) : w &&& k = m := by
  obtain ⟨-, hw⟩ := decode_isOf w
  simpa only [hw] using encode_meets_row (decode w) (m, k) h

/-- A word that meets a row decodes to an instruction of that row (30_encoding.md R83, R86). -/
theorem rowOf_decode_of_mask {w m k : Word} {i : Instr} (hr : rowOf i = some (m, k)) (h : w &&& k = m) :
    rowOf (decode w) = some (m, k) := by
  cases i with
  | jp | call | seImm | sneImm | ldImm | addImm | ldI | jpV0 | rnd | drw =>
    cases hr
    simp [decode, fieldFamily_of_mask_family h, rowOf]
  | seReg | sneReg | ldReg | orReg | andReg | xorReg | addReg | sub | subn | shr | shl =>
    cases hr
    obtain ⟨hf, hn⟩ := fields_of_mask_lowNibble h
    simp [decode, decodeFamily8, hf, hn, rowOf]
  | cls | ret | skp | sknp | ldVxDt | ldDtVx | ldStVx | ldVxK | addI | ldF | ldB | storeRegs | loadRegs =>
    cases hr
    obtain ⟨hf, hkk⟩ := fields_of_mask_lowByte h
    simp [decode, decodeFamily0, decodeFamilyE, decodeFamilyF, hf, hkk, rowOf]
  | unknown => cases hr

/-- UNKNOWN alone has no row. -/
theorem exists_unknown_of_rowOf_eq_none {i : Instr} (h : rowOf i = none) : ∃ v, i = .unknown v := by
  cases i with
  | unknown v => exact ⟨v, rfl⟩
  | _ => cases h

/-- UNKNOWN carries the word it was decoded from. -/
theorem eq_of_decode_eq_unknown {w v : Word} (h : decode w = .unknown v) : v = w := by
  obtain ⟨-, hw⟩ := decode_isOf w
  rwa [h] at hw

/-- The decoder's UNKNOWN is the unknown space of well-formedness (30_encoding.md R88). -/
theorem decode_eq_unknown_iff (w : Word) : decode w = .unknown w ↔ unknownWord w = true := by
  refine ⟨fun h => ?_, decode_of_unknownWord⟩
  obtain ⟨hwf, -⟩ := decode_isOf w
  rwa [h] at hwf

end Sys2Proof

namespace Sys2Proof.Claims

open Sys2Proof.Machine

/-- Settles O4: decoding reads the family and the fields that encoding wrote. -/
theorem decodeUndoesEncode : Obligations.DecodeUndoesEncode := fun _ => decode_encode

/-- Settles O6: a word is the encoding of what it decodes to, and so meets its row; the other way, the row's mask keeps
the fields the decoder selects by. -/
theorem decodeSelectsTheMatchingRow : Obligations.DecodeSelectsTheMatchingRow := by
  refine ⟨fun w i m k hr => ⟨rowOf_decode_of_mask hr, mask_of_rowOf_decode⟩, fun w => ⟨fun hnone => ?_, fun h => ?_⟩⟩
  · obtain ⟨v, hv⟩ := exists_unknown_of_rowOf_eq_none hnone
    rw [hv, eq_of_decode_eq_unknown hv]
  · rw [h, rowOf]

/-- Settles O7: `unknownWord` lists the same families, by the fields of the word. -/
theorem unknownSpaceByFamily : Obligations.UnknownSpaceByFamily := by
  intro w
  have hfamily : (w.extractLsb' 12 4).toNat = w.toNat / 4096 := fieldFamily_toNat w
  have hlow : (w.extractLsb' 0 8).toNat = w.toNat % 256 := fieldKk_toNat w
  have hnibble : (w.extractLsb' 0 4).toNat = w.toNat % 16 := fieldN_toNat w
  have hlt : w.toNat % 16 < 16 := Nat.mod_lt _ (by decide)
  rw [decode_eq_unknown_iff, unknownWord, hfamily, hlow, hnibble]
  generalize w.toNat / 4096 = family, w.toNat % 256 = low, w.toNat % 16 = nibble at hlt ⊢
  dsimp only
  split
  case h_1 | h_5 | h_6 => simp
  case h_2 | h_4 => simp [Nat.one_le_iff_ne_zero]
  case h_3 =>
    simp only [List.contains_iff_mem, List.mem_cons, List.not_mem_nil, or_false, true_and]
    omega
  case h_7 =>
    simp only [imp_false] at *
    simp [*]

/-- Settles O58: by induction down the two lists. -/
theorem canonicalMemoriesThatReadAlikeAreEqual : Obligations.CanonicalMemoriesThatReadAlikeAreEqual :=
  fun _ _ _ => Memory.ext_of_wfFrom

/-- Settles O1: each field of `State.reset`. -/
theorem resetLeavesListedValues : Obligations.ResetLeavesListedValues :=
  ⟨State.readByte_reset, rfl, rfl, fun _ => Vector.getElem_replicate _, rfl, rfl,
    fun _ => Vector.getElem_replicate _, rfl, rfl, cellOf_clearGrid, rfl, rfl, rfl, rfl, rfl⟩

/-- Settles O2: `State.reset` is what the host's reset makes of it, and every reset by the host leaves the invariant. -/
theorem invariantAtReset : Obligations.InvariantAtReset := inv_hostReset State.reset

end Sys2Proof.Claims
end
